-- ==== Sys2Proof/Word.lean ====
section
/-! DEFINITION. The widths of the values CTS-CORE's rules speak of (00_scope.md R8, 10_state.md R21 to R30,
30_encoding.md R70) and the plainest arithmetic on them. -/

namespace Sys2Proof

/-- A command word of the ROM: 16 bits (30_encoding.md R70, 20_memory.md R53). -/
abbrev Word := BitVec 16

/-- A ROM index as the program counter holds it: 8 bits (10_state.md R21). -/
abbrev RomIndex := BitVec 8

/-- A raw count, an averaged reading, a history slot, a minimum or a maximum: 16 bits unsigned
(00_scope.md R8, 10_state.md R24, R25, R28 to R30). -/
abbrev Count := BitVec 16

/-- The running sum: 32 bits unsigned (10_state.md R26). -/
abbrev Total := BitVec 32

/-- The sub-sample index `k`: 17 bits unsigned (10_state.md R27). -/
abbrev SubIndex := BitVec 17

/-- The smaller of two counts, as unsigned numbers (44_touch_detector.md R162). -/
def Count.lower (a b : Count) : Count := if a.toNat ≤ b.toNat then a else b

/-- The larger of two counts, as unsigned numbers (44_touch_detector.md R162). -/
def Count.upper (a b : Count) : Count := if a.toNat ≤ b.toNat then b else a

end Sys2Proof
end

