-- ==== Sys2Proof/Syntax.lean ====
section
/-! DEFINITION. The command set of CTS-CORE: one constructor per row of 30_encoding.md R77, with the operands of
R74 (a pin) and R75 (a signed word offset). -/

namespace Sys2Proof

/-- The two terminals of the sense network (10_state.md R22, 30_encoding.md R74). -/
inductive Pin where
  /-- Pin A, `p` = 0: the terminal of steps a and e. -/
  | A
  /-- Pin B, `p` = 1: the terminal of steps b and d. -/
  | B
deriving DecidableEq, Repr, Inhabited

/-- The 30 commands (30_encoding.md R77). A branch's `off` is the integer `sext_8(off8)` of R75; WellFormed.lean
bounds it. -/
inductive Instr where
  /-- 40_sequencer.md R91. -/
  | nop
  /-- 40_sequencer.md R92. -/
  | cli
  /-- 40_sequencer.md R93. -/
  | sei
  /-- 40_sequencer.md R94. -/
  | sleepen
  /-- 41_sense_network.md R111. -/
  | drvl (p : Pin)
  /-- 41_sense_network.md R112. -/
  | drvh (p : Pin)
  /-- 41_sense_network.md R113 (`FLOAT`). -/
  | floatPin (p : Pin)
  /-- 41_sense_network.md R114. -/
  | pullup (p : Pin)
  /-- 41_sense_network.md R115. -/
  | drvl2
  /-- 41_sense_network.md R116. -/
  | chg (p : Pin)
  /-- 41_sense_network.md R121. -/
  | cmprd
  /-- 41_sense_network.md R120. -/
  | cdelay
  /-- 42_discharge_timer.md R125. -/
  | dtstart
  /-- 42_discharge_timer.md R126. -/
  | dtstop
  /-- 43_sample_acquirer.md R140. -/
  | cntclr
  /-- 43_sample_acquirer.md R141. -/
  | cntinc
  /-- 43_sample_acquirer.md R143. -/
  | rawset
  /-- 43_sample_acquirer.md R144. -/
  | accclr
  /-- 43_sample_acquirer.md R145. -/
  | accadd
  /-- 43_sample_acquirer.md R146. -/
  | avg
  /-- 44_touch_detector.md R160. -/
  | push
  /-- 44_touch_detector.md R162. -/
  | scan
  /-- 44_touch_detector.md R163. -/
  | eval
  /-- 44_touch_detector.md R166. -/
  | emitev
  /-- 44_touch_detector.md R167. -/
  | emitdg
  /-- 40_sequencer.md R100. -/
  | bra (off : Int)
  /-- 40_sequencer.md R101. -/
  | bflag (off : Int)
  /-- 40_sequencer.md R102. -/
  | bnflag (off : Int)
  /-- 40_sequencer.md R104. -/
  | bpass (off : Int)
  /-- 40_sequencer.md R105. -/
  | bsub (off : Int)
deriving DecidableEq, Repr

/-- The mnemonic of a command as 30_encoding.md R77 spells it. -/
def Instr.mnemonic : Instr → String
  | .nop => "NOP"
  | .cli => "CLI"
  | .sei => "SEI"
  | .sleepen => "SLEEPEN"
  | .drvl _ => "DRVL"
  | .drvh _ => "DRVH"
  | .floatPin _ => "FLOAT"
  | .pullup _ => "PULLUP"
  | .drvl2 => "DRVL2"
  | .chg _ => "CHG"
  | .cmprd => "CMPRD"
  | .cdelay => "CDELAY"
  | .dtstart => "DTSTART"
  | .dtstop => "DTSTOP"
  | .cntclr => "CNTCLR"
  | .cntinc => "CNTINC"
  | .rawset => "RAWSET"
  | .accclr => "ACCCLR"
  | .accadd => "ACCADD"
  | .avg => "AVG"
  | .push => "PUSH"
  | .scan => "SCAN"
  | .eval => "EVAL"
  | .emitev => "EMITEV"
  | .emitdg => "EMITDG"
  | .bra _ => "BRA"
  | .bflag _ => "BFLAG"
  | .bnflag _ => "BNFLAG"
  | .bpass _ => "BPASS"
  | .bsub _ => "BSUB"

end Sys2Proof
end

