-- ==== Sys2Proof/Config.lean ====
section
/-! DEFINITION. The configuration parameters C0 to C12 (00_scope.md R7, 10_state.md R40), the two canonical ROMs
(30_encoding.md R84, R85), the default configuration, and the free stream of slots that stands for everything the
interleaving and the environment decide (20_memory.md R59, 41_sense_network.md R122, 60_exceptions.md R191). -/

namespace Sys2Proof

/-- P7: when step b drives the pin hard (41_sense_network.md R117). -/
inductive KickPolicy where
  | firstPass
  | firstSubsample
  | alwaysHard
deriving DecidableEq, Repr

/-- P5: the charge-delay strategy (41_sense_network.md R120). -/
inductive ChargeDelay where
  | zero
  | cal7
deriving DecidableEq, Repr

/-- P8: how the discharge wait waits (30_encoding.md R82). -/
inductive AwaitMode where
  | sleep
  | poll
deriving DecidableEq, Repr

/-- The read-only configuration file (10_state.md R40), in the order C0 to C12 of 00_scope.md R7. It is fixed for
the whole run. WellFormed.lean says which values are legal. -/
structure Config where
  /-- C0 `WINDOW`, the capacity of the history ring. -/
  window : Nat
  /-- C1 `SAMPLES`, the sub-samples per reading. -/
  samples : Nat
  /-- C2 `THR_NUM`. -/
  thrNum : Nat
  /-- C3 `THR_DEN`. -/
  thrDen : Nat
  /-- C4 `CLK_DIV`: timing only, read by no rule (log 14). -/
  clkDiv : Nat
  /-- C5 `CHARGE_DELAY`. -/
  chargeDelay : ChargeDelay
  /-- C6 `DELAY_CYCLES`: 7. -/
  delayCycles : Nat
  /-- C7 `KICK_POLICY`. -/
  kickPolicy : KickPolicy
  /-- C8 `AWAIT_MODE`: selects the expansion of `AWAIT` and so the default ROM. -/
  awaitMode : AwaitMode
  /-- C9 `DISCHARGE_TICKS`: timing only, read by no rule (log 14). -/
  dischargeTicks : Nat
  /-- C10 `CMP_POLARITY`: the physical comparator level that means "below threshold". The block sees the normalised
  bit only (41_sense_network.md R122; log 13). -/
  cmpPolarity : Bool
  /-- C11 `PIN_MAP`: the physical lines of pin A and pin B, read by no rule (log 13). -/
  pinMap : Nat × Nat
  /-- C12 `ROM`: the command words; ROM_SIZE is its length (20_memory.md R53). -/
  rom : List Word
deriving DecidableEq, Repr

/-- The canonical ROM for `AWAIT_MODE = SLEEP`: the 29 words of 30_encoding.md R84. -/
def Config.canonicalSleepRom : List Word :=
  [0x4300, 0x1400, 0x3000, 0x0100, 0x7203, 0x0300, 0x70FD, 0x3100, 0x0200, 0x4000, 0x1200, 0x1501, 0x2100, 0x1301,
    0x1001, 0x1000, 0x2000, 0x4100, 0x73F8, 0x4200, 0x4400, 0x74EC, 0x4500, 0x5000, 0x5100, 0x5200, 0x6000, 0x6100,
    0x70E4]

/-- The canonical ROM for `AWAIT_MODE = POLL`: the 25 words of 30_encoding.md R85. -/
def Config.canonicalPollRom : List Word :=
  [0x4300, 0x1400, 0x3000, 0x7100, 0x3100, 0x4000, 0x1200, 0x1501, 0x2100, 0x1301, 0x1001, 0x1000, 0x2000, 0x4100,
    0x73F8, 0x4200, 0x4400, 0x74F0, 0x4500, 0x5000, 0x5100, 0x5200, 0x6000, 0x6100, 0x70E8]

/-- The default of C12: the canonical ROM for the await mode (00_scope.md R7). -/
def Config.canonicalRom : AwaitMode → List Word
  | .sleep => Config.canonicalSleepRom
  | .poll => Config.canonicalPollRom

/-- The default column of 00_scope.md R7. DESIGN CHOICE, unsafe (log 2): C4, C5, C9, C10 and C11, whose default the
spec leaves OPEN, stand at the values below (`ZERO` for C5, as the spec's test vectors use). -/
def Config.default : Config where
  window := 10
  samples := 10
  thrNum := 98
  thrDen := 100
  clkDiv := 1
  chargeDelay := .zero
  delayCycles := 7
  kickPolicy := .firstPass
  awaitMode := .sleep
  dischargeTicks := 1
  cmpPolarity := true
  pinMap := (0, 1)
  rom := Config.canonicalRom .sleep

/-- The two interrupt sources (60_exceptions.md R189). -/
inductive Source where
  /-- The timer expiry, pending in `tpend`. -/
  | timer
  /-- The other source (serial-buffer-ready), pending in `opend`. -/
  | other
deriving DecidableEq, Repr, Inhabited

/-- Who takes a step (00_scope.md R6). -/
inductive Agent where
  /-- The foreground sequencer. -/
  | seq
  /-- The discharge timer: the expiry. -/
  | tmr
  /-- Interrupt delivery of one source. -/
  | int (src : Source)
  /-- The environment raising IRQ_OTHER. -/
  | env
deriving DecidableEq, Repr, Inhabited

/-- One place in the total order of atomic steps (20_memory.md R59): the agent whose turn it is and the levels the
environment drives on the two sampled input ports while that step is made (10_state.md R41). -/
structure Slot where
  agent : Agent
  /-- CMP_BELOW, the normalised comparator answer: the `draw_cmp()` of this step (41_sense_network.md R122). -/
  cmpBelow : Bool
  /-- OUT_READY, the sink's ready input in this step (10_state.md R35). -/
  outReady : Bool
deriving DecidableEq, Repr, Inhabited

/-- The slot a machine starts with; the value is a DESIGN CHOICE, unsafe (log 5). -/
def Slot.first : Slot where
  agent := .seq
  cmpBelow := false
  outReady := true

/-- FREE VALUE (log 4): the slot of the step numbered `n`, where no slot is laid down. Opaque, with no body but the
type's inhabitant: no proof can learn which agent moves, what the comparator answers or whether the sink is ready
(41_sense_network.md R122 "No law constrains it", 60_exceptions.md R191, 20_memory.md R59). -/
opaque Config.freeSlot (n : Nat) : Slot

end Sys2Proof
end

