-- ==== Sys2Proof/WellFormed.lean ====
section
/-! DEFINITION. Which commands an assembler may emit (30_encoding.md R75, R81) and which configurations have a run
(00_scope.md R7, 60_exceptions.md R188). -/

namespace Sys2Proof

/-- `off` fits the signed 8-bit field of format B: −128 ≤ off ≤ 127 (30_encoding.md R75, R81). -/
def offsetFits (off : Int) : Bool := decide (-128 ≤ off) && decide (off ≤ 127)

/-- A command whose operands its format can hold. Pins always fit (30_encoding.md R72); a branch offset must lie in
−128..127 (R75, R81). -/
def Instr.wellFormed : Instr → Bool
  | .bra off => offsetFits off
  | .bflag off => offsetFits off
  | .bnflag off => offsetFits off
  | .bpass off => offsetFits off
  | .bsub off => offsetFits off
  | .nop => true
  | .cli => true
  | .sei => true
  | .sleepen => true
  | .drvl _ => true
  | .drvh _ => true
  | .floatPin _ => true
  | .pullup _ => true
  | .drvl2 => true
  | .chg _ => true
  | .cmprd => true
  | .cdelay => true
  | .dtstart => true
  | .dtstop => true
  | .cntclr => true
  | .cntinc => true
  | .rawset => true
  | .accclr => true
  | .accadd => true
  | .avg => true
  | .push => true
  | .scan => true
  | .eval => true
  | .emitev => true
  | .emitdg => true

/-- 1 ≤ WINDOW ≤ 65535 (00_scope.md R7, P0). -/
def Config.windowLegal (c : Config) : Bool := decide (1 ≤ c.window) && decide (c.window ≤ 65535)

/-- 1 ≤ SAMPLES ≤ 65537 (00_scope.md R7, P1). -/
def Config.samplesLegal (c : Config) : Bool := decide (1 ≤ c.samples) && decide (c.samples ≤ 65537)

/-- 0 ≤ THR_NUM ≤ THR_DEN and 1 ≤ THR_DEN ≤ 65535 (00_scope.md R7, P2 and P3). -/
def Config.thresholdLegal (c : Config) : Bool :=
  decide (c.thrNum ≤ c.thrDen) && (decide (1 ≤ c.thrDen) && decide (c.thrDen ≤ 65535))

/-- DELAY_CYCLES = 7 and DISCHARGE_TICKS ≥ 1 (00_scope.md R7, P6 and P9). -/
def Config.timingLegal (c : Config) : Bool := decide (c.delayCycles = 7) && decide (1 ≤ c.dischargeTicks)

/-- ROM_SIZE ≤ 256 words (00_scope.md R7, P12). -/
def Config.romLegal (c : Config) : Bool := decide (c.rom.length ≤ 256)

/-- The legal column of 00_scope.md R7. A configuration outside it has no run (60_exceptions.md R188). The values
R7 leaves OPEN (C4, C10, C11) have no condition. -/
def Config.legal (c : Config) : Bool :=
  c.windowLegal && (c.samplesLegal && (c.thresholdLegal && (c.timingLegal && c.romLegal)))

end Sys2Proof
end

