-- ==== Sys2Proof/Decode.lean ====
section
/-! DEFINITION. Decoding a 16-bit command word (30_encoding.md R70 to R80, 40_sequencer.md R97), the encoder written
from the same formats, and the opcode table of R77 as data. -/

namespace Sys2Proof

/-- Why a word is illegal (30_encoding.md R78). The machine records the word and not the reason (60_exceptions.md
R186); the names are the model's (log 20). -/
inductive DecodeReject where
  /-- `grp` = 0x8 to 0xF. -/
  | reservedGroup
  /-- An `op` or `cond` that the group does not define. -/
  | reservedOp
  /-- A must-be-zero field that is not zero: `zero` of R71, `zero7` of R72, the `p` bit of `DRVL2`. -/
  | nonzeroField
deriving DecidableEq, Repr

/-- Group field `w[15:12]` (30_encoding.md R76). -/
def fieldGroup (w : Word) : BitVec 4 := w.extractLsb' 12 4

/-- `op` or `cond`, `w[11:8]` (30_encoding.md R71 to R73). -/
def fieldOp (w : Word) : BitVec 4 := w.extractLsb' 8 4

/-- `w[7:0]`: `zero`, `zero7 ++ p` or `off8` (30_encoding.md R71 to R73). -/
def fieldLow (w : Word) : BitVec 8 := w.extractLsb' 0 8

/-- `pin(0) = A` and `pin(1) = B` (30_encoding.md R74). -/
def pinOfBit (b : Bool) : Pin := if b then .B else .A

/-- The `p` bit of a pin (30_encoding.md R74). -/
def bitOfPin : Pin → BitVec 1
  | .A => 0
  | .B => 1

/-- Format N: the low byte must be 0x00 (30_encoding.md R71). -/
def decodeN (low : BitVec 8) (i : Instr) : Except DecodeReject Instr :=
  if low = 0 then .ok i else .error .nonzeroField

/-- Format P: `w[7:1]` must be 0 and `w[0]` selects the pin (30_encoding.md R72, R74). -/
def decodeP (low : BitVec 8) (f : Pin → Instr) : Except DecodeReject Instr :=
  if low.extractLsb' 1 7 = 0 then .ok (f (pinOfBit (low.getLsbD 0))) else .error .nonzeroField

/-- Format B: `off = sext_8(w[7:0])` (30_encoding.md R73, R75). -/
def decodeB (low : BitVec 8) (f : Int → Instr) : Except DecodeReject Instr := .ok (f low.toInt)

/-- Group 0x0, system (30_encoding.md R77). -/
def decodeSystem (op : Nat) (low : BitVec 8) : Except DecodeReject Instr :=
  match op with
  | 0 => decodeN low .nop
  | 1 => decodeN low .cli
  | 2 => decodeN low .sei
  | 3 => decodeN low .sleepen
  | _ => .error .reservedOp

/-- Group 0x1, sense-network pins (30_encoding.md R77). `DRVL2` needs `p` = 0 as well (R72). -/
def decodePins (op : Nat) (low : BitVec 8) : Except DecodeReject Instr :=
  match op with
  | 0 => decodeP low .drvl
  | 1 => decodeP low .drvh
  | 2 => decodeP low .floatPin
  | 3 => decodeP low .pullup
  | 4 => decodeN low .drvl2
  | 5 => decodeP low .chg
  | _ => .error .reservedOp

/-- Group 0x2, comparator and charge delay (30_encoding.md R77). -/
def decodeSense (op : Nat) (low : BitVec 8) : Except DecodeReject Instr :=
  match op with
  | 0 => decodeN low .cmprd
  | 1 => decodeN low .cdelay
  | _ => .error .reservedOp

/-- Group 0x3, discharge timer (30_encoding.md R77). -/
def decodeTimer (op : Nat) (low : BitVec 8) : Except DecodeReject Instr :=
  match op with
  | 0 => decodeN low .dtstart
  | 1 => decodeN low .dtstop
  | _ => .error .reservedOp

/-- Group 0x4, raw counter and accumulator (30_encoding.md R77). -/
def decodeAcquirer (op : Nat) (low : BitVec 8) : Except DecodeReject Instr :=
  match op with
  | 0 => decodeN low .cntclr
  | 1 => decodeN low .cntinc
  | 2 => decodeN low .rawset
  | 3 => decodeN low .accclr
  | 4 => decodeN low .accadd
  | 5 => decodeN low .avg
  | _ => .error .reservedOp

/-- Group 0x5, history and detector (30_encoding.md R77). -/
def decodeDetector (op : Nat) (low : BitVec 8) : Except DecodeReject Instr :=
  match op with
  | 0 => decodeN low .push
  | 1 => decodeN low .scan
  | 2 => decodeN low .eval
  | _ => .error .reservedOp

/-- Group 0x6, output records (30_encoding.md R77). -/
def decodeOutput (op : Nat) (low : BitVec 8) : Except DecodeReject Instr :=
  match op with
  | 0 => decodeN low .emitev
  | 1 => decodeN low .emitdg
  | _ => .error .reservedOp

/-- Group 0x7, branches (30_encoding.md R77, 40_sequencer.md R98). -/
def decodeBranch (op : Nat) (low : BitVec 8) : Except DecodeReject Instr :=
  match op with
  | 0 => decodeB low .bra
  | 1 => decodeB low .bflag
  | 2 => decodeB low .bnflag
  | 3 => decodeB low .bpass
  | 4 => decodeB low .bsub
  | _ => .error .reservedOp

/-- `decode(w)` of 40_sequencer.md R97, total on all 65536 words: the group field selects a unit (30_encoding.md
R76), and every word outside R77 is illegal (R78). -/
def decode (w : Word) : Except DecodeReject Instr :=
  match (fieldGroup w).toNat with
  | 0 => decodeSystem (fieldOp w).toNat (fieldLow w)
  | 1 => decodePins (fieldOp w).toNat (fieldLow w)
  | 2 => decodeSense (fieldOp w).toNat (fieldLow w)
  | 3 => decodeTimer (fieldOp w).toNat (fieldLow w)
  | 4 => decodeAcquirer (fieldOp w).toNat (fieldLow w)
  | 5 => decodeDetector (fieldOp w).toNat (fieldLow w)
  | 6 => decodeOutput (fieldOp w).toNat (fieldLow w)
  | 7 => decodeBranch (fieldOp w).toNat (fieldLow w)
  | _ => .error .reservedGroup

/-- Format N word (30_encoding.md R71). -/
def encodeN (grp op : BitVec 4) : Word := grp ++ op ++ (0 : BitVec 8)

/-- Format P word (30_encoding.md R72). -/
def encodeP (op : BitVec 4) (p : Pin) : Word := (1 : BitVec 4) ++ op ++ (0 : BitVec 7) ++ bitOfPin p

/-- Format B word (30_encoding.md R73): the low 8 bits of the two's complement of the offset (R75). -/
def encodeB (cond : BitVec 4) (off : Int) : Word := (7 : BitVec 4) ++ cond ++ BitVec.ofInt 8 off

/-- The word of a well-formed command (30_encoding.md R77). -/
def encode : Instr → Word
  | .nop => encodeN 0 0
  | .cli => encodeN 0 1
  | .sei => encodeN 0 2
  | .sleepen => encodeN 0 3
  | .drvl p => encodeP 0 p
  | .drvh p => encodeP 1 p
  | .floatPin p => encodeP 2 p
  | .pullup p => encodeP 3 p
  | .drvl2 => encodeN 1 4
  | .chg p => encodeP 5 p
  | .cmprd => encodeN 2 0
  | .cdelay => encodeN 2 1
  | .dtstart => encodeN 3 0
  | .dtstop => encodeN 3 1
  | .cntclr => encodeN 4 0
  | .cntinc => encodeN 4 1
  | .rawset => encodeN 4 2
  | .accclr => encodeN 4 3
  | .accadd => encodeN 4 4
  | .avg => encodeN 4 5
  | .push => encodeN 5 0
  | .scan => encodeN 5 1
  | .eval => encodeN 5 2
  | .emitev => encodeN 6 0
  | .emitdg => encodeN 6 1
  | .bra off => encodeB 0 off
  | .bflag off => encodeB 1 off
  | .bnflag off => encodeB 2 off
  | .bpass off => encodeB 3 off
  | .bsub off => encodeB 4 off

/-- One row of the opcode table: a word is the command when `w AND mask = match` (30_encoding.md R77). -/
structure OpcodeRow where
  mnemonic : String
  pattern : Word
  mask : Word
deriving DecidableEq, Repr

/-- The row's test (30_encoding.md R77, 40_sequencer.md R97). -/
def OpcodeRow.covers (r : OpcodeRow) (w : Word) : Bool := w &&& r.mask == r.pattern

/-- The rows of groups 0x0 to 0x3 (30_encoding.md R77). -/
def opcodeRowsLow : List OpcodeRow :=
  [⟨"NOP", 0x0000, 0xFFFF⟩, ⟨"CLI", 0x0100, 0xFFFF⟩, ⟨"SEI", 0x0200, 0xFFFF⟩, ⟨"SLEEPEN", 0x0300, 0xFFFF⟩,
    ⟨"DRVL", 0x1000, 0xFFFE⟩, ⟨"DRVH", 0x1100, 0xFFFE⟩, ⟨"FLOAT", 0x1200, 0xFFFE⟩, ⟨"PULLUP", 0x1300, 0xFFFE⟩,
    ⟨"DRVL2", 0x1400, 0xFFFF⟩, ⟨"CHG", 0x1500, 0xFFFE⟩, ⟨"CMPRD", 0x2000, 0xFFFF⟩, ⟨"CDELAY", 0x2100, 0xFFFF⟩,
    ⟨"DTSTART", 0x3000, 0xFFFF⟩, ⟨"DTSTOP", 0x3100, 0xFFFF⟩]

/-- The rows of groups 0x4 to 0x7 (30_encoding.md R77). -/
def opcodeRowsHigh : List OpcodeRow :=
  [⟨"CNTCLR", 0x4000, 0xFFFF⟩, ⟨"CNTINC", 0x4100, 0xFFFF⟩, ⟨"RAWSET", 0x4200, 0xFFFF⟩, ⟨"ACCCLR", 0x4300, 0xFFFF⟩,
    ⟨"ACCADD", 0x4400, 0xFFFF⟩, ⟨"AVG", 0x4500, 0xFFFF⟩, ⟨"PUSH", 0x5000, 0xFFFF⟩, ⟨"SCAN", 0x5100, 0xFFFF⟩,
    ⟨"EVAL", 0x5200, 0xFFFF⟩, ⟨"EMITEV", 0x6000, 0xFFFF⟩, ⟨"EMITDG", 0x6100, 0xFFFF⟩, ⟨"BRA", 0x7000, 0xFF00⟩,
    ⟨"BFLAG", 0x7100, 0xFF00⟩, ⟨"BNFLAG", 0x7200, 0xFF00⟩, ⟨"BPASS", 0x7300, 0xFF00⟩, ⟨"BSUB", 0x7400, 0xFF00⟩]

/-- The 30 rows of 30_encoding.md R77, in the table's order. The machine decodes by `decode`; that the two agree is
a statement of its own. -/
def opcodeTable : List OpcodeRow := opcodeRowsLow ++ opcodeRowsHigh

/-- The command in the `nbits` low bits of `w`: one word is always consumed (30_encoding.md R70), so only the first
16 bits are read, and every bit at or above `nbits` is 0. -/
def decodeTableWord (nbits w : Nat) : Option Instr :=
  match decode (BitVec.ofNat 16 (w % 2 ^ nbits)) with
  | .ok i => some i
  | .error _ => none

end Sys2Proof
end

