-- ==== Sys2Proof/Machine/State.lean ====
section
/-! DEFINITION. The state of CTS-CORE as plain data: every register, flag and history slot of 10_state.md, the port
trace of 00_scope.md R12, the configuration the step is a function of, and the model's own fields for the
interleaving (log 4). -/

namespace Sys2Proof.Machine

/-- The four modes of a sense-network line (10_state.md R22). -/
inductive PinMode where
  | driveLow
  | driveHigh
  | hiz
  | pullup
deriving DecidableEq, Repr

/-- The registers that start unwritten (10_state.md R44), as the information of `F_UNWRITTEN` names them. -/
inductive RegName where
  | cmp
  | cnt
  | raw
  | sum
  | k
  | reading
  | mn
  | mx
  | event
deriving DecidableEq, Repr

/-- The commands that can raise `F_RANGE`, as its information names them (60_exceptions.md R186). -/
inductive RangeCommand where
  | accadd
  | avg
  | emitdg
deriving DecidableEq, Repr

/-- A fault code with its information (60_exceptions.md R186): what the spec's `fault` register holds. -/
inductive FaultRecord where
  /-- Code 1, `F_FETCH`: fetch at `pc ≥ ROM_SIZE`. -/
  | fetch (pc : RomIndex)
  /-- Code 2, `F_ILLEGAL`: the fetched word matches no command. -/
  | illegal (w : Word)
  /-- Code 3, `F_UNWRITTEN`: a command read a register that is still `⊥`. -/
  | unwritten (r : RegName)
  /-- Code 4, `F_RANGE`: a result would not fit, or a diagnostic difference would be negative. -/
  | range (c : RangeCommand)
deriving DecidableEq, Repr

/-- The events of the port trace (00_scope.md R12). -/
inductive TraceEvent where
  /-- `PIN(p, m)`: a pin command wrote the mode of a pin. -/
  | pin (p : Pin) (m : PinMode)
  /-- `DELAY(n)`: a timing-only busy-wait of n cycles. -/
  | delay (cycles : Nat)
  /-- `TOUCH`: a touch-onset record handed to the sink. -/
  | touch
  /-- `DIAG(r, mn, mx, d0, d1, d2)`: a diagnostic record handed to the sink. -/
  | diag (r mn mx d0 d1 d2 : Count)
deriving DecidableEq, Repr

/-- The history memory (20_memory.md R50): pairs of a slot index and a 16-bit slot value, held in one canonical form,
indices strictly rising and no value equal to 0, which is what an unlisted slot reads as (the reset contents,
10_state.md R29). The unit is the indivisible 16-bit slot (20_memory.md R56; log 11). -/
abbrev Memory := List (Nat × Count)

/-- The machine. `Option` fields are the spec's own registers that can hold no value, `⊥` (00_scope.md R11,
10_state.md R44; log 3). -/
structure State where
  /-- The configuration and the ROM, parameters of the step (10_state.md R20, R40; log 1). -/
  cfg : Config
  /-- MODEL's field: the boot step of 70_reset_and_hazards.md R212 has happened (log 7). -/
  booted : Bool
  /-- MODEL's field: the slot of the step to be made next (log 4). -/
  slot : Slot
  /-- MODEL's field: the slots already laid down for the steps after it (log 4). -/
  plan : List Slot
  /-- MODEL's field: how many steps have been made, the index into the free stream (log 4). -/
  tick : Nat
  /-- 10_state.md R21. -/
  pc : RomIndex
  /-- `pin[A]`, 10_state.md R22. -/
  pinA : PinMode
  /-- `pin[B]`, 10_state.md R22. -/
  pinB : PinMode
  /-- 10_state.md R23: 1 means "below threshold". -/
  cmp : Option Bool
  /-- 10_state.md R24. -/
  cnt : Option Count
  /-- 10_state.md R25. -/
  raw : Option Count
  /-- 10_state.md R26. -/
  sum : Option Total
  /-- 10_state.md R27. -/
  k : Option SubIndex
  /-- 10_state.md R28. -/
  reading : Option Count
  /-- 10_state.md R29, 20_memory.md R50. -/
  hist : Memory
  /-- 10_state.md R29: the next slot `PUSH` overwrites. -/
  wp : Nat
  /-- 10_state.md R30. -/
  mn : Option Count
  /-- 10_state.md R30. -/
  mx : Option Count
  /-- 10_state.md R33: 1 = `InPeak`. -/
  inpeak : Bool
  /-- 10_state.md R33. -/
  event : Option Bool
  /-- 10_state.md R32: 1 = the discharge window is still open. -/
  dflag : Bool
  /-- 10_state.md R34. -/
  ie : Bool
  /-- 10_state.md R36: the countdown is enabled. -/
  trun : Bool
  /-- 10_state.md R36: the one-shot expiry has fired in this window. -/
  tfired : Bool
  /-- 10_state.md R36: the expiry interrupt is pending. -/
  tpend : Bool
  /-- 10_state.md R37: the other interrupt is pending. -/
  opend : Bool
  /-- 10_state.md R37: SEQ is suspended. -/
  sleeping : Bool
  /-- 10_state.md R38. -/
  fault : Option FaultRecord
  /-- The port trace so far, oldest event first (00_scope.md R12). -/
  trace : List TraceEvent
deriving DecidableEq, Repr

/-- The reasons a step of the model stops. -/
inductive Fault where
  /-- Raised by `step` alone, in a state whose `fault` register already holds `f`: "no SEQ, TMR, INT or ENV step is
  enabled" (60_exceptions.md R186). The step that raised `f` was a next state (log 9). Safe: the machine has no step
  there. -/
  | stopped (f : FaultRecord)
deriving DecidableEq, Repr

/-- The reasons the model refuses a step. -/
inductive Refusal where
  /-- An arm of `exec` with no meaning yet. No arm of this model raises it. Safe. -/
  | notModelled (mnemonic : String)
  /-- Raised by `step` alone, for a configuration outside the legal values of 00_scope.md R7: it "has no run"
  (60_exceptions.md R188; log 12). Safe. -/
  | illegalConfiguration
deriving DecidableEq, Repr

/-- The machine right after reset and before boot (10_state.md R43, 70_reset_and_hazards.md R210), under the default
configuration (00_scope.md R7; log 2). `booted`, `slot`, `plan` and `tick` are the model's (log 5, log 7). -/
def State.reset : State where
  cfg := Config.default
  booted := false
  slot := Slot.first
  plan := []
  tick := 0
  pc := 0
  pinA := .hiz
  pinB := .hiz
  cmp := none
  cnt := none
  raw := none
  sum := none
  k := none
  reading := none
  hist := []
  wp := 0
  mn := none
  mx := none
  inpeak := false
  event := none
  dflag := false
  ie := false
  trun := false
  tfired := false
  tpend := false
  opend := false
  sleeping := false
  fault := none
  trace := []

end Sys2Proof.Machine
end

