-- ==== Sys2Proof/Machine/Flags.lean ====
section
/-! DEFINITION. Every flag computation and every condition a command tests: the branch conditions (40_sequencer.md
R98), the kick condition (41_sense_network.md R117), the threshold rule and the detection state machine
(44_touch_detector.md R163 to R165), and the range conditions of `F_RANGE` (60_exceptions.md R186). -/

namespace Sys2Proof.Machine

/-- `BPASS`: taken when `cnt ≠ 0` and `cmp = 0` (40_sequencer.md R98, R104). -/
def passAgain (cnt : Count) (cmp : Bool) : Bool := cnt != 0 && !cmp

/-- `BSUB`: taken when `k < SAMPLES` (40_sequencer.md R98, R105). -/
def subsampleAgain (k : SubIndex) (samples : Nat) : Bool := decide (k.toNat < samples)

/-- `hard()` of 41_sense_network.md R117. -/
def hardDrive (policy : KickPolicy) (cnt : Option Count) (k : Option SubIndex) : Bool :=
  match policy with
  | .firstPass => cnt == some 0
  | .firstSubsample => k == some 0
  | .alwaysHard => true

/-- `cond` of `EVAL`: `reading × THR_DEN < mx × THR_NUM`, on exact integers (44_touch_detector.md R163, R164). -/
def belowThreshold (c : Config) (reading mx : Count) : Bool :=
  decide (reading.toNat * c.thrDen < mx.toNat * c.thrNum)

/-- `event` after `EVAL`: the transition `Idle → InPeak` (44_touch_detector.md R163, R165). -/
def touchOnset (cond inpeak : Bool) : Bool := cond && !inpeak

/-- `sum + raw` or `k + 1` would not fit its register (43_sample_acquirer.md R145). -/
def accumulatorOverflows (sum : Total) (raw : Count) (k : SubIndex) : Bool :=
  decide (2 ^ 32 - 1 < sum.toNat + raw.toNat) || decide (2 ^ 17 - 1 < k.toNat + 1)

/-- The Raw Sample that `RAWSET` fixes: 0xFFFF where the counter wrapped (43_sample_acquirer.md R143). -/
def rawSample (cnt : Count) : Count := if cnt = 0 then 0xFFFF else cnt

/-- `mn ≤ reading ≤ mx`, the condition of `EMITDG` (44_touch_detector.md R167). -/
def diagnosticInRange (reading mn mx : Count) : Bool :=
  decide (mn.toNat ≤ reading.toNat) && decide (reading.toNat ≤ mx.toNat)

/-- The record `EMITEV` hands over, if it hands one over (44_touch_detector.md R166). -/
def touchRecord (event : Option Bool) : Option TraceEvent := if event = some true then some .touch else none

/-- The diagnostic record: the three values and their three differences (44_touch_detector.md R167). -/
def diagRecord (reading mn mx : Count) : TraceEvent :=
  .diag reading mn mx (mx - mn) (reading - mn) (mx - reading)

end Sys2Proof.Machine
end

