-- ==== Sys2Proof/Machine/Operands.lean ====
section
/-! DEFINITION. The operand forms: the branch target (30_encoding.md R75, 40_sequencer.md R99), the addressed pin
(30_encoding.md R74) and the 2-bit mode code of the pin ports (10_state.md R22). -/

namespace Sys2Proof.Machine

/-- `(pc + off) mod 2^8` with `pc` the index of the branch itself (30_encoding.md R75, 40_sequencer.md R99). -/
def branchTarget (pc : RomIndex) (off : Int) : RomIndex := BitVec.ofInt 8 ((pc.toNat : Int) + off)

/-- `(pc + 1) mod 2^8` (10_state.md R21). -/
def followingIndex (pc : RomIndex) : RomIndex := pc + 1

/-- `pin[p]` (30_encoding.md R74, 10_state.md R22). -/
def State.pin (s : State) (p : Pin) : PinMode :=
  match p with
  | .A => s.pinA
  | .B => s.pinB

/-- The 2-bit code of a mode: 0b00, 0b01, 0b10, 0b11 (10_state.md R22). -/
def PinMode.code : PinMode → BitVec 2
  | .driveLow => 0
  | .driveHigh => 1
  | .hiz => 2
  | .pullup => 3

end Sys2Proof.Machine
end

