-- ==== Sys2Proof/Machine/Ops.lean ====
section
/-! DEFINITION. The named operations over the state: one named update per group of registers that is written
together, the history memory, raising a fault (60_exceptions.md R186), taking and leaving an interrupt (R190 to
R194), handing a record to the sink (10_state.md R35), and the branch (40_sequencer.md R99). -/

namespace Sys2Proof.Machine

/-! ### The history memory (20_memory.md R50 to R52) -/

/-- `hist[i]`: an unlisted slot reads as the reset content 0 (10_state.md R29, R43). -/
def Memory.read : Memory → Nat → Count
  | [], _ => 0
  | (a, v) :: rest, i => if a = i then v else Memory.read rest i

/-- `hist[i] <- v`, keeping the canonical form: writing 0 removes the entry. -/
def Memory.write : Memory → Nat → Count → Memory
  | [], i, v => if v = 0 then [] else [(i, v)]
  | (a, x) :: rest, i, v =>
    if i < a then (if v = 0 then (a, x) :: rest else (i, v) :: (a, x) :: rest)
    else if i = a then (if v = 0 then rest else (i, v) :: rest)
    else (a, x) :: Memory.write rest i v

/-- Every index lies in `lo ..< hi`, indices rise strictly and no value is 0. -/
def Memory.canonicalFrom (lo hi : Nat) : Memory → Bool
  | [] => true
  | (a, v) :: rest => decide (lo ≤ a) && (decide (a < hi) && (v != 0 && Memory.canonicalFrom (a + 1) hi rest))

/-- The canonical form of a history of `window` slots (log 11). -/
def Memory.wf (window : Nat) (m : Memory) : Bool := Memory.canonicalFrom 0 window m

/-- The slots `hist[0..WINDOW-1]` in index order (20_memory.md R51). -/
def Memory.slots (window : Nat) (m : Memory) : List Count := (List.range window).map m.read

/-- The current window, oldest first (20_memory.md R52). -/
def Memory.oldestFirst (window wp : Nat) (m : Memory) : List Count :=
  (List.range window).map fun j => m.read ((wp + j) % window)

/-- `min { hist[i] : 0 ≤ i < WINDOW }` (44_touch_detector.md R162). -/
def Memory.lowest (window : Nat) (m : Memory) : Count := (m.slots window).foldr Count.lower 0xFFFF

/-- `max { hist[i] : 0 ≤ i < WINDOW }` (44_touch_detector.md R162). -/
def Memory.highest (window : Nat) (m : Memory) : Count := (m.slots window).foldr Count.upper 0

/-! ### Named updates -/

/-- `pc <- a`. -/
def State.setPc (s : State) (a : RomIndex) : State := { s with pc := a }

/-- `pin[p] <- m` without its event. -/
def State.setPin (s : State) (p : Pin) (m : PinMode) : State :=
  { s with pinA := if p = .A then m else s.pinA, pinB := if p = .B then m else s.pinB }

/-- `trace(e)` (00_scope.md R10). -/
def State.logEvent (s : State) (e : TraceEvent) : State := { s with trace := s.trace ++ [e] }

/-- `cmp <- b`. -/
def State.setCmp (s : State) (b : Bool) : State := { s with cmp := some b }

/-- `cnt <- v`. -/
def State.setCnt (s : State) (v : Count) : State := { s with cnt := some v }

/-- `raw <- v`. -/
def State.setRaw (s : State) (v : Count) : State := { s with raw := some v }

/-- `sum <- t; k <- i`. -/
def State.setAccumulator (s : State) (t : Total) (i : SubIndex) : State := { s with sum := some t, k := some i }

/-- `reading <- v`. -/
def State.setReading (s : State) (v : Count) : State := { s with reading := some v }

/-- `hist[wp] <- v; wp <- (wp + 1) mod WINDOW` (44_touch_detector.md R160). -/
def State.pushHistory (s : State) (v : Count) : State :=
  { s with hist := s.hist.write s.wp v, wp := (s.wp + 1) % s.cfg.window }

/-- `mn <- lo; mx <- hi`. -/
def State.setMinMax (s : State) (lo hi : Count) : State := { s with mn := some lo, mx := some hi }

/-- `event <- e; inpeak <- c`. -/
def State.setDetector (s : State) (e c : Bool) : State := { s with event := some e, inpeak := c }

/-- `ie <- b`. -/
def State.setIe (s : State) (b : Bool) : State := { s with ie := b }

/-- `sleeping <- b`. -/
def State.setSleeping (s : State) (b : Bool) : State := { s with sleeping := b }

/-- `dflag <- 1; trun <- 1; tfired <- 0; tpend <- 0` (42_discharge_timer.md R125). -/
def State.armWindow (s : State) : State := { s with dflag := true, trun := true, tfired := false, tpend := false }

/-- `trun <- 0` (42_discharge_timer.md R126). -/
def State.stopCountdown (s : State) : State := { s with trun := false }

/-- `tpend <- 1; tfired <- 1` (42_discharge_timer.md R130). -/
def State.expire (s : State) : State := { s with tpend := true, tfired := true }

/-- `dflag <- 0; tpend <- 0` (42_discharge_timer.md R131). -/
def State.closeWindow (s : State) : State := { s with dflag := false, tpend := false }

/-- `opend <- b`. -/
def State.setOpend (s : State) (b : Bool) : State := { s with opend := b }

/-- `fault <- f`. -/
def State.setFault (s : State) (f : FaultRecord) : State := { s with fault := some f }

/-- The boot step: `ie <- 1`, after which SEQ begins (70_reset_and_hazards.md R212). -/
def State.boot (s : State) : State := { s with booted := true, ie := true }

/-- The next slot of the total order: the first of the plan, or a free one (20_memory.md R59; log 4). -/
def State.nextSlot (s : State) : Slot :=
  match s.plan with
  | x :: _ => x
  | [] => Config.freeSlot s.tick

/-- The step in force is over: its slot passes and the next one is in force (log 4). -/
def State.passSlot (s : State) : State := { s with slot := s.nextSlot, plan := s.plan.tail, tick := s.tick + 1 }

/-- The machine with another ROM in its configuration: the load that `withFetchWord` stands for (log 8). -/
def State.setRom (s : State) (rom : List Word) : State := { s with cfg := { s.cfg with rom := rom } }

/-- The machine with the slot in force replaced (log 8). -/
def State.setSlot (s : State) (x : Slot) : State := { s with slot := x }

/-- The machine with no fault recorded (log 8). -/
def State.clearFault (s : State) : State := { s with fault := none }

/-! ### Shared operations of the commands -/

/-- `raise Fault(code, info)`: writes `fault` and nothing else (60_exceptions.md R186, R187). Taking a fault is a
next state (log 9). There is no return from one: it is sticky (10_state.md R38). -/
def raiseFault (f : FaultRecord) (s : State) : State := s.setFault f

/-- Read a register that may be unwritten: `F_UNWRITTEN` where it is `⊥` (00_scope.md R11), else go on with its
value. -/
def withWritten {α : Type} (r : RegName) (v : Option α) (s : State) (go : α → State) : State :=
  match v with
  | none => raiseFault (.unwritten r) s
  | some x => go x

/-- `pc <- (pc + 1) mod 2^8` (40_sequencer.md R90). -/
def advancePc (s : State) : State := s.setPc (followingIndex s.pc)

/-- Take the branch if `taken`, else fall through (40_sequencer.md R99). -/
def branchIf (taken : Bool) (off : Int) (s : State) : State :=
  if taken then s.setPc (branchTarget s.pc off) else advancePc s

/-- `pin[p] <- m` with its `PIN(p, m)` event, made even when the mode is the old one (41_sense_network.md R110,
10_state.md R22). -/
def drivePin (p : Pin) (m : PinMode) (s : State) : State := (s.setPin p m).logEvent (.pin p m)

/-- The drive of step b: hard, or first through the pull-up (41_sense_network.md R116). -/
def chargeDrive (hard : Bool) (p : Pin) (s : State) : State :=
  if hard then drivePin p .driveHigh s else drivePin p .driveHigh (drivePin p .pullup s)

/-- `emit(e)` and the end of the command: the record is handed over while OUT_READY is 1; while it is 0 the command
holds, nothing is written and `pc` is unchanged (10_state.md R35, 40_sequencer.md R90). -/
def emitRecord (e : TraceEvent) (s : State) : State := if s.slot.outReady then advancePc (s.logEvent e) else s

/-! ### Interrupts -/

/-- The pending bit of a source (60_exceptions.md R189). -/
def State.pending (s : State) : Source → Bool
  | .timer => s.tpend
  | .other => s.opend

/-- The fixed handlers (60_exceptions.md R192). -/
def handler (src : Source) (s : State) : State :=
  match src with
  | .timer => s.closeWindow
  | .other => s.setOpend false

/-- `int_step` is enabled: `fault = none`, `ie = 1` and the source pending (60_exceptions.md R190). -/
def intEnabled (src : Source) (s : State) : Bool := s.fault.isNone && (s.ie && s.pending src)

/-- The implicit return at the end of the handler step: nothing is restored, SEQ is awake (60_exceptions.md R194). -/
def leaveInterrupt (s : State) : State := s.setSleeping false

/-- Interrupt entry, handler and return, one atomic step: nothing is saved, `pc` and `ie` stay, the handler runs, SEQ
is woken (60_exceptions.md R190, R193). -/
def takeInterrupt (src : Source) (s : State) : State := leaveInterrupt (handler src s)

/-- The TMR expiry step is enabled (42_discharge_timer.md R130). -/
def tmrEnabled (s : State) : Bool := s.fault.isNone && (s.trun && !s.tfired)

end Sys2Proof.Machine
end

