-- ==== Sys2Proof/Machine/Acquirer.lean ====
section
/-! DEFINITION. The raw counter and the accumulator, group 0x4 (43_sample_acquirer.md R140 to R146). -/

namespace Sys2Proof.Machine

/-- `CNTCLR`: `cnt <- 0` (43_sample_acquirer.md R140). -/
def execCntclr (s : State) : Host.Outcome State Fault Refusal := .next (advancePc (s.setCnt 0))

/-- `CNTINC`: `cnt <- (cnt + 1) mod 2^16` (43_sample_acquirer.md R141). -/
def execCntinc (s : State) : Host.Outcome State Fault Refusal :=
  .next (withWritten .cnt s.cnt s fun n => advancePc (s.setCnt (n + 1)))

/-- `RAWSET`: fix the Raw Sample (43_sample_acquirer.md R143). -/
def execRawset (s : State) : Host.Outcome State Fault Refusal :=
  .next (withWritten .cnt s.cnt s fun n => advancePc (s.setRaw (rawSample n)))

/-- `ACCCLR`: `sum <- 0; k <- 0` (43_sample_acquirer.md R144). -/
def execAccclr (s : State) : Host.Outcome State Fault Refusal := .next (advancePc (s.setAccumulator 0 0))

/-- `ACCADD`: `sum <- sum + raw; k <- k + 1`, with the checks in the order raw, sum, k, range
(43_sample_acquirer.md R145). -/
def execAccadd (s : State) : Host.Outcome State Fault Refusal :=
  .next (withWritten .raw s.raw s fun r => withWritten .sum s.sum s fun t => withWritten .k s.k s fun i =>
    if accumulatorOverflows t r i then raiseFault (.range .accadd) s
    else advancePc (s.setAccumulator (t + r.zeroExtend 32) (i + 1)))

/-- `AVG`: `reading <- sum / SAMPLES`, truncated, `F_RANGE` above 0xFFFF (43_sample_acquirer.md R146). -/
def execAvg (s : State) : Host.Outcome State Fault Refusal :=
  .next (withWritten .sum s.sum s fun t =>
    if 0xFFFF < t.toNat / s.cfg.samples then raiseFault (.range .avg) s
    else advancePc (s.setReading (BitVec.ofNat 16 (t.toNat / s.cfg.samples))))

end Sys2Proof.Machine
end

