-- ==== Sys2Proof/Machine/Branch.lean ====
section
/-! DEFINITION. The branches of group 0x7 (40_sequencer.md R98 to R105). -/

namespace Sys2Proof.Machine

/-- `BRA off8`: always taken (40_sequencer.md R100). -/
def execBra (off : Int) (s : State) : Host.Outcome State Fault Refusal := .next (branchIf true off s)

/-- `BFLAG off8`: taken while `dflag = 1` (40_sequencer.md R101). -/
def execBflag (off : Int) (s : State) : Host.Outcome State Fault Refusal := .next (branchIf s.dflag off s)

/-- `BNFLAG off8`: taken when `dflag = 0` (40_sequencer.md R102). -/
def execBnflag (off : Int) (s : State) : Host.Outcome State Fault Refusal := .next (branchIf (!s.dflag) off s)

/-- `BPASS off8`: `cnt` is checked before `cmp` (40_sequencer.md R104). -/
def execBpass (off : Int) (s : State) : Host.Outcome State Fault Refusal :=
  .next (withWritten .cnt s.cnt s fun n => withWritten .cmp s.cmp s fun b => branchIf (passAgain n b) off s)

/-- `BSUB off8` (40_sequencer.md R105). -/
def execBsub (off : Int) (s : State) : Host.Outcome State Fault Refusal :=
  .next (withWritten .k s.k s fun i => branchIf (subsampleAgain i s.cfg.samples) off s)

end Sys2Proof.Machine
end

