-- ==== Sys2Proof/Machine/Detector.lean ====
section
/-! DEFINITION. The history and the detector, group 0x5 (44_touch_detector.md R160 to R165). -/

namespace Sys2Proof.Machine

/-- `PUSH`: overwrite the oldest slot and move the write pointer (44_touch_detector.md R160). -/
def execPush (s : State) : Host.Outcome State Fault Refusal :=
  .next (withWritten .reading s.reading s fun r => advancePc (s.pushHistory r))

/-- `SCAN`: minimum and maximum over every slot, in one step (44_touch_detector.md R162). -/
def execScan (s : State) : Host.Outcome State Fault Refusal :=
  .next (advancePc (s.setMinMax (s.hist.lowest s.cfg.window) (s.hist.highest s.cfg.window)))

/-- The two writes of `EVAL` for a known `cond` (44_touch_detector.md R163, R165). -/
def evaluate (cond : Bool) (s : State) : State := s.setDetector (touchOnset cond s.inpeak) cond

/-- `EVAL`: the transition rule (44_touch_detector.md R163). -/
def execEval (s : State) : Host.Outcome State Fault Refusal :=
  .next (withWritten .reading s.reading s fun r => withWritten .mx s.mx s fun hi =>
    advancePc (evaluate (belowThreshold s.cfg r hi) s))

end Sys2Proof.Machine
end

