-- ==== Sys2Proof/Machine/Output.lean ====
section
/-! DEFINITION. The output records, group 0x6 (44_touch_detector.md R166, R167), through the handshake of
10_state.md R35. The operand checks come before the hold (log 10). -/

namespace Sys2Proof.Machine

/-- `EMITEV`: one `TOUCH` where `event = 1`, nothing where it is 0; `event` is not cleared
(44_touch_detector.md R166). -/
def execEmitev (s : State) : Host.Outcome State Fault Refusal :=
  .next (withWritten .event s.event s fun e => if e then emitRecord .touch s else advancePc s)

/-- `EMITDG`: the checks in the order reading, mn, mx, range, then the record (44_touch_detector.md R167;
log 17). -/
def execEmitdg (s : State) : Host.Outcome State Fault Refusal :=
  .next (withWritten .reading s.reading s fun r => withWritten .mn s.mn s fun lo => withWritten .mx s.mx s fun hi =>
    if diagnosticInRange r lo hi then emitRecord (diagRecord r lo hi) s else raiseFault (.range .emitdg) s)

end Sys2Proof.Machine
end

