-- ==== Sys2Proof/Machine/Sense.lean ====
section
/-! DEFINITION. The sense-network commands of groups 0x1 and 0x2: pins, charge drive, comparator and charge delay
(41_sense_network.md R110 to R122). -/

namespace Sys2Proof.Machine

/-- `DRVL p` (41_sense_network.md R111). -/
def execDrvl (p : Pin) (s : State) : Host.Outcome State Fault Refusal := .next (advancePc (drivePin p .driveLow s))

/-- `DRVH p` (41_sense_network.md R112). -/
def execDrvh (p : Pin) (s : State) : Host.Outcome State Fault Refusal := .next (advancePc (drivePin p .driveHigh s))

/-- `FLOAT p` (41_sense_network.md R113). -/
def execFloatPin (p : Pin) (s : State) : Host.Outcome State Fault Refusal := .next (advancePc (drivePin p .hiz s))

/-- `PULLUP p` (41_sense_network.md R114). -/
def execPullup (p : Pin) (s : State) : Host.Outcome State Fault Refusal := .next (advancePc (drivePin p .pullup s))

/-- `DRVL2`: both pins low in one step, the event of pin A first (41_sense_network.md R115). -/
def execDrvl2 (s : State) : Host.Outcome State Fault Refusal :=
  .next (advancePc (drivePin .B .driveLow (drivePin .A .driveLow s)))

/-- The register `CHG` reads under a kick policy must be written (41_sense_network.md R116). -/
def withKickRegister (s : State) (go : State) : State :=
  match s.cfg.kickPolicy with
  | .firstPass => withWritten .cnt s.cnt s fun _ => go
  | .firstSubsample => withWritten .k s.k s fun _ => go
  | .alwaysHard => go

/-- `CHG p`, one step (41_sense_network.md R116, R117). -/
def execChg (p : Pin) (s : State) : Host.Outcome State Fault Refusal :=
  .next (withKickRegister s (advancePc (chargeDrive (hardDrive s.cfg.kickPolicy s.cnt s.k) p s)))

/-- `CMPRD`: `cmp <- draw_cmp()`, the answer the environment gives in this step (41_sense_network.md R121, R122). -/
def execCmprd (s : State) : Host.Outcome State Fault Refusal := .next (advancePc (s.setCmp s.slot.cmpBelow))

/-- The event of the charge delay, if the strategy makes one (41_sense_network.md R120). -/
def chargeDelayEvent (s : State) : State :=
  match s.cfg.chargeDelay with
  | .zero => s
  | .cal7 => s.logEvent (.delay s.cfg.delayCycles)

/-- `CDELAY` (41_sense_network.md R120). -/
def execCdelay (s : State) : Host.Outcome State Fault Refusal := .next (advancePc (chargeDelayEvent s))

end Sys2Proof.Machine
end

