-- ==== Sys2Proof/Machine/System.lean ====
section
/-! DEFINITION. The system commands of group 0x0 (40_sequencer.md R91 to R94). -/

namespace Sys2Proof.Machine

/-- `NOP` (40_sequencer.md R91). -/
def execNop (s : State) : Host.Outcome State Fault Refusal := .next (advancePc s)

/-- `CLI`: `ie <- 0` (40_sequencer.md R92). -/
def execCli (s : State) : Host.Outcome State Fault Refusal := .next (advancePc (s.setIe false))

/-- `SEI`: `ie <- 1` (40_sequencer.md R93). -/
def execSei (s : State) : Host.Outcome State Fault Refusal := .next (advancePc (s.setIe true))

/-- `SLEEPEN`: `ie <- 1; sleeping <- 1; pc <- (pc + 1) mod 2^8` in one step (40_sequencer.md R94). -/
def execSleepen (s : State) : Host.Outcome State Fault Refusal :=
  .next (advancePc ((s.setIe true).setSleeping true))

end Sys2Proof.Machine
end

