-- ==== Sys2Proof/Machine/Timer.lean ====
section
/-! DEFINITION. The discharge-timer commands of group 0x3 (42_discharge_timer.md R125, R126). -/

namespace Sys2Proof.Machine

/-- `DTSTART`: the flag is set in the step that arms the timer (42_discharge_timer.md R125). -/
def execDtstart (s : State) : Host.Outcome State Fault Refusal := .next (advancePc s.armWindow)

/-- `DTSTOP`: `trun <- 0` (42_discharge_timer.md R126). -/
def execDtstop (s : State) : Host.Outcome State Fault Refusal := .next (advancePc s.stopCountdown)

end Sys2Proof.Machine
end

