-- ==== Sys2Proof/Machine/Dispatch.lean ====
section
/-! DEFINITION. One arm per command: its meaning (40_sequencer.md R90 "perform c as its family rule says"). -/

namespace Sys2Proof.Machine

def exec (i : Instr) (s : State) : Host.Outcome State Fault Refusal :=
  match i with
  | .nop => Sys2Proof.Machine.execNop s
  | .cli => Sys2Proof.Machine.execCli s
  | .sei => Sys2Proof.Machine.execSei s
  | .sleepen => Sys2Proof.Machine.execSleepen s
  | .drvl p => Sys2Proof.Machine.execDrvl p s
  | .drvh p => Sys2Proof.Machine.execDrvh p s
  | .floatPin p => Sys2Proof.Machine.execFloatPin p s
  | .pullup p => Sys2Proof.Machine.execPullup p s
  | .drvl2 => Sys2Proof.Machine.execDrvl2 s
  | .chg p => Sys2Proof.Machine.execChg p s
  | .cmprd => Sys2Proof.Machine.execCmprd s
  | .cdelay => Sys2Proof.Machine.execCdelay s
  | .dtstart => Sys2Proof.Machine.execDtstart s
  | .dtstop => Sys2Proof.Machine.execDtstop s
  | .cntclr => Sys2Proof.Machine.execCntclr s
  | .cntinc => Sys2Proof.Machine.execCntinc s
  | .rawset => Sys2Proof.Machine.execRawset s
  | .accclr => Sys2Proof.Machine.execAccclr s
  | .accadd => Sys2Proof.Machine.execAccadd s
  | .avg => Sys2Proof.Machine.execAvg s
  | .push => Sys2Proof.Machine.execPush s
  | .scan => Sys2Proof.Machine.execScan s
  | .eval => Sys2Proof.Machine.execEval s
  | .emitev => Sys2Proof.Machine.execEmitev s
  | .emitdg => Sys2Proof.Machine.execEmitdg s
  | .bra off => Sys2Proof.Machine.execBra off s
  | .bflag off => Sys2Proof.Machine.execBflag off s
  | .bnflag off => Sys2Proof.Machine.execBnflag off s
  | .bpass off => Sys2Proof.Machine.execBpass off s
  | .bsub off => Sys2Proof.Machine.execBsub off s

end Sys2Proof.Machine
end

