-- ==== Sys2Proof/Machine/Agents.lean ====
section
/-! DEFINITION. One step of each agent (00_scope.md R6): SEQ's fetch, decode and command (40_sequencer.md R90), the
timer's expiry (42_discharge_timer.md R130), interrupt delivery (60_exceptions.md R190) and the environment's
request (R189). An agent that has no step in a state holds: the state stays (00_scope.md R10 "hold"; log 6). -/

namespace Sys2Proof.Machine

/-- `ROM[pc]`, none at or above ROM_SIZE (20_memory.md R53, R54). -/
def fetchWord (s : State) : Option Word := s.cfg.rom[s.pc.toNat]?

/-- The command at `pc`, if the fetch and the decode give one (40_sequencer.md R90). -/
def commandAtPc (s : State) : Option Instr :=
  match fetchWord s with
  | none => none
  | some w =>
    match decode w with
    | .ok i => some i
    | .error _ => none

/-- One SEQ command: fetch, decode, perform (40_sequencer.md R90). A fetch or decode fault is a next state. -/
def seqCommand (s : State) : Host.Outcome State Fault Refusal :=
  match fetchWord s with
  | none => .next (raiseFault (.fetch s.pc) s)
  | some w =>
    match decode w with
    | .error _ => .next (raiseFault (.illegal w) s)
    | .ok i => exec i s

/-- SEQ's turn: the boot step before boot (70_reset_and_hazards.md R212; log 7), no step while sleeping
(40_sequencer.md R95), else one command. -/
def seqTurn (s : State) : Host.Outcome State Fault Refusal :=
  if s.booted then (if s.sleeping then .next s else seqCommand s) else .next s.boot

/-- TMR's turn (42_discharge_timer.md R130). -/
def tmrTurn (s : State) : State := if tmrEnabled s then s.expire else s

/-- INT's turn for a source (60_exceptions.md R190). -/
def intTurn (src : Source) (s : State) : State := if intEnabled src s then takeInterrupt src s else s

/-- ENV's turn: IRQ_OTHER sets `opend`; a request while one is pending merges with it (10_state.md R37,
60_exceptions.md R189). It may come before boot (70_reset_and_hazards.md R212). -/
def envTurn (s : State) : State := s.setOpend true

/-- The step of the agent whose turn it is. -/
def agentStep (s : State) : Host.Outcome State Fault Refusal :=
  match s.slot.agent with
  | .seq => seqTurn s
  | .tmr => .next (tmrTurn s)
  | .int src => .next (intTurn src s)
  | .env => .next (envTurn s)

/-- Apply `f` to a next state; a fault or a refusal stays. -/
def onNext (f : State → State) : Host.Outcome State Fault Refusal → Host.Outcome State Fault Refusal
  | .next s => .next (f s)
  | .fault r => .fault r
  | .refused r => .refused r

/-- The record the command at `pc` has to hand over, if it is an emitting command whose operands are in order
(44_touch_detector.md R166, R167; log 10). -/
def recordAtPc (s : State) : Option TraceEvent :=
  match commandAtPc s with
  | some .emitev => touchRecord s.event
  | some .emitdg =>
    match s.reading, s.mn, s.mx with
    | some r, some lo, some hi => if diagnosticInRange r lo hi then some (diagRecord r lo hi) else none
    | _, _, _ => none
  | _ => none

/-- SEQ has a command step (40_sequencer.md R96): booted, no fault, awake, and not held by a full sink. -/
def seqEnabled (s : State) : Bool :=
  s.booted && (s.fault.isNone && (!s.sleeping && (s.slot.outReady || (recordAtPc s).isNone)))

/-- `w` stored at ROM index `i`, the words between the old end and `i` filled with 0x0000 (`NOP`). -/
def placeWord : List Word → Nat → Word → List Word
  | [], 0, w => [w]
  | [], i + 1, w => 0 :: placeWord [] i w
  | _ :: rest, 0, w => w :: rest
  | x :: rest, i + 1, w => x :: placeWord rest i w

/-- Everything a fetch at `pc` needs: the word in the ROM, the boot step made, no fault, SEQ awake and its turn
(40_sequencer.md R90, R96; log 8). -/
def readyToFetch (s : State) (w : Word) : State :=
  ((((if s.booted then s else s.boot).setRom (placeWord s.cfg.rom s.pc.toNat w)).clearFault).setSleeping false).setSlot
    { s.slot with agent := .seq }

end Sys2Proof.Machine
end

