-- ==== Sys2Proof/Machine/Step.lean ====
section
/-! DEFINITION. One step of the whole machine: the agent whose turn it is makes its step, and its slot passes
(20_memory.md R59; log 4). -/

namespace Sys2Proof.Machine

/-- A configuration outside 00_scope.md R7 has no run (60_exceptions.md R188); in a faulted machine no agent has a
step (R186); else the agent of the slot in force steps. -/
def step (s : State) : Host.Outcome State Fault Refusal :=
  if s.cfg.legal then
    match s.fault with
    | some f => .fault (.stopped f)
    | none => onNext State.passSlot (agentStep s)
  else .refused .illegalConfiguration

/-- `s` with the instruction whose `nbits` low bits are `w` stored where `step` fetches next: one word at ROM index
`pc`, SEQ booted and awake, and the slot in force SEQ's (log 8). -/
def State.withFetchWord (s : State) (nbits w : Nat) : State := readyToFetch s (BitVec.ofNat 16 (w % 2 ^ nbits))

end Sys2Proof.Machine
end

