-- ==== Sys2Proof/Machine/Ports.lean ====
section
/-! DEFINITION. The output ports of 10_state.md R41 as functions of the state (log 16). The input ports CMP_BELOW and
OUT_READY stand in `State.slot`; TMR_EXPIRE is TMR's turn and IRQ_OTHER is ENV's. -/

namespace Sys2Proof.Machine

/-- `PA_MODE`, 2 bits (10_state.md R41). -/
def portPaMode (s : State) : BitVec 2 := (s.pin .A).code

/-- `PB_MODE`, 2 bits (10_state.md R41). -/
def portPbMode (s : State) : BitVec 2 := (s.pin .B).code

/-- `TMR_START`: the pulse of the step to be made from `s`, asserted when that step is a `DTSTART`
(10_state.md R41, 42_discharge_timer.md R125). -/
def portTmrStart (s : State) : Bool :=
  s.slot.agent == .seq && (seqEnabled s && commandAtPc s == some .dtstart)

/-- `TMR_RUN` = `trun` (10_state.md R41). -/
def portTmrRun (s : State) : Bool := s.trun

/-- `SLEEP` = `sleeping` (10_state.md R41, 60_exceptions.md R202). -/
def portSleep (s : State) : Bool := s.sleeping

/-- The record an emitting command is waiting to hand over, if one is (10_state.md R41). -/
def waitingRecord (s : State) : Option TraceEvent :=
  if s.booted && (s.fault.isNone && !s.sleeping) then recordAtPc s else none

/-- `OUT_VALID` (10_state.md R41). -/
def portOutValid (s : State) : Bool := (waitingRecord s).isSome

/-- `OUT_KIND` of a record: 0 = `TOUCH`, 1 = `DIAG` (10_state.md R41). -/
def recordKind : TraceEvent → Option (BitVec 1)
  | .touch => some 0
  | .diag _ _ _ _ _ _ => some 1
  | .pin _ _ => none
  | .delay _ => none

/-- `OUT_DATA` of a record: `r ++ mn ++ mx ++ d0 ++ d1 ++ d2` for `DIAG`, zero for `TOUCH` (10_state.md R41). -/
def recordData : TraceEvent → Option (BitVec 96)
  | .touch => some 0
  | .diag r mn mx d0 d1 d2 => some (r ++ mn ++ mx ++ d0 ++ d1 ++ d2)
  | .pin _ _ => none
  | .delay _ => none

/-- `OUT_KIND` while `OUT_VALID` is 1; the spec gives it no value otherwise. -/
def portOutKind (s : State) : Option (BitVec 1) := (waitingRecord s).bind recordKind

/-- `OUT_DATA` while `OUT_VALID` is 1; the spec gives it no value otherwise. -/
def portOutData (s : State) : Option (BitVec 96) := (waitingRecord s).bind recordData

end Sys2Proof.Machine
end

