-- ==== Sys2Proof/Safety.lean ====
section
/-! DEFINITION. The terms claims use: the invariants of the machine, its runs, and the fairness conditions of
60_exceptions.md R196. -/

namespace Sys2Proof.Machine

/-! ### Invariants -/

/-- The configuration is legal (00_scope.md R7, 60_exceptions.md R188). -/
abbrev State.ConfigOk (s : State) : Prop := s.cfg.legal = true

/-- `wp` is an index in 0..WINDOW-1 and the history is in canonical form (10_state.md R29, 20_memory.md R51). -/
abbrev State.HistoryOk (s : State) : Prop := s.wp < s.cfg.window ∧ s.hist.wf s.cfg.window = true

/-- The four timer bits (42_discharge_timer.md R125 to R132): a pending expiry belongs to an open window that has
fired, a running countdown that has not fired belongs to an open window, and an open window that has fired has its
expiry pending, so the write of 0 to `dflag` is never lost. -/
abbrev State.TimerOk (s : State) : Prop :=
  (s.tpend = true → s.dflag = true ∧ s.tfired = true) ∧
  (s.trun = true → s.tfired = false → s.dflag = true) ∧
  (s.dflag = true → s.tfired = true → s.tpend = true)

/-- A suspended SEQ is booted and can be woken: `ie = 1` (60_exceptions.md R203). -/
abbrev State.SleepOk (s : State) : Prop := s.sleeping = true → s.ie = true ∧ s.booted = true

/-- Before boot no interrupt is enabled, the timer is stopped and SEQ has done nothing (70_reset_and_hazards.md
R212). -/
abbrev State.BootOk (s : State) : Prop :=
  s.booted = false →
    s.ie = false ∧ s.trun = false ∧ s.sleeping = false ∧ s.fault = none ∧ s.pc = 0 ∧ s.trace = []

/-- A Raw Sample is never 0 (43_sample_acquirer.md R148). -/
abbrev State.RawOk (s : State) : Prop := s.raw ≠ some 0

/-- `sum` and `k` are written together, and `k ≤ sum ≤ k × 0xFFFF` (43_sample_acquirer.md R150, R151). -/
def accumulatorWithin : Option Total → Option SubIndex → Bool
  | none, none => true
  | some t, some i => decide (i.toNat ≤ t.toNat) && decide (t.toNat ≤ i.toNat * 0xFFFF)
  | none, some _ => false
  | some _, none => false

/-- See `accumulatorWithin`. -/
abbrev State.AccumulatorOk (s : State) : Prop := accumulatorWithin s.sum s.k = true

/-- `mn` and `mx` are written together, and `mn ≤ mx` (44_touch_detector.md R162). -/
def extremesOrdered : Option Count → Option Count → Bool
  | none, none => true
  | some lo, some hi => decide (lo.toNat ≤ hi.toNat)
  | none, some _ => false
  | some _, none => false

/-- The detector: `mn ≤ mx`, an onset leaves `InPeak`, and `inpeak` is 0 until the first `EVAL`
(44_touch_detector.md R162, R163, R165). -/
abbrev State.DetectorOk (s : State) : Prop :=
  extremesOrdered s.mn s.mx = true ∧ (s.event = some true → s.inpeak = true) ∧ (s.event = none → s.inpeak = false)

/-- The invariant of the whole machine, for every ROM. -/
structure State.Inv (s : State) : Prop where
  config : s.ConfigOk
  history : s.HistoryOk
  timer : s.TimerOk
  sleep : s.SleepOk
  boot : s.BootOk
  raw : s.RawOk
  accumulator : s.AccumulatorOk
  detector : s.DetectorOk

/-! ### The terms of the statements -/

/-- The pin operand of a command, if it has one (30_encoding.md R74). -/
def pinOperandOf : Instr → Option Pin
  | .drvl p => some p
  | .drvh p => some p
  | .floatPin p => some p
  | .pullup p => some p
  | .chg p => some p
  | _ => none

/-- The branch offset of a command, if it has one (30_encoding.md R75). -/
def offsetOperandOf : Instr → Option Int
  | .bra off => some off
  | .bflag off => some off
  | .bnflag off => some off
  | .bpass off => some off
  | .bsub off => some off
  | _ => none

/-- In the step from `s`, SEQ performs the command `i`. -/
def RunsCommand (s : State) (i : Instr) : Prop :=
  s.slot.agent = .seq ∧ s.booted = true ∧ s.sleeping = false ∧ commandAtPc s = some i

/-- `t` is `s` after a command that left pin `p` in mode `m` with the events `es`: the other pin, every other field
but `pc`, and the trace before are as in `s`, and `pc` names the following command. -/
def PinWritten (s t : State) (p : Pin) (m : PinMode) (es : List TraceEvent) : Prop :=
  t.pin p = m ∧ (∀ q, q ≠ p → t.pin q = s.pin q) ∧
  t = { s with pinA := t.pinA, pinB := t.pinB, trace := s.trace ++ es, pc := s.pc + 1 }

/-- `t` is reached from `s` by `PUSH`es of the readings `xs`, in order; between two of them anything may happen that
leaves the history, the write pointer and the configuration alone. -/
inductive PushedFrom (s : State) : List Count → State → Prop where
  | start : PushedFrom s [] s
  | push {xs : List Count} {t u v : State} {x : Count} : PushedFrom s xs t → u.hist = t.hist → u.wp = t.wp →
      u.cfg = t.cfg → u.reading = some x → exec .push u = .next v → PushedFrom s (xs ++ [x]) v

/-! ### Runs -/

/-- The machine after reset under the configuration `c`, with the slots the environment lays down
(70_reset_and_hazards.md R210). -/
def State.resetWith (c : Config) (x : Slot) (later : List Slot) : State :=
  { State.reset with cfg := c, slot := x, plan := later }

/-- `t` is reached from `s` by steps. -/
inductive Reaches (s : State) : State → Prop where
  | here : Reaches s s
  | more {t u : State} : Reaches s t → step t = .next u → Reaches s u

/-- An infinite run: each state is the step of the one before (70_reset_and_hazards.md R214). -/
def IsRun (r : Nat → State) : Prop := ∀ n, step (r n) = .next (r (n + 1))

/-! ### Fairness (60_exceptions.md R196) -/

/-- (a) TMR is weakly fair. -/
def TmrFair (r : Nat → State) : Prop :=
  ∀ n, (∀ m, n ≤ m → tmrEnabled (r m) = true) → ∃ m, n ≤ m ∧ (r m).slot.agent = .tmr

/-- (b) INT is weakly fair per source. -/
def IntFair (r : Nat → State) : Prop :=
  ∀ src n, (∀ m, n ≤ m → intEnabled src (r m) = true) → ∃ m, n ≤ m ∧ (r m).slot.agent = .int src

/-- (c) SEQ is weakly fair; its boot step too (log 7). -/
def SeqFair (r : Nat → State) : Prop :=
  ∀ n, (∀ m, n ≤ m → seqEnabled (r m) = true ∨ (r m).booted = false) → ∃ m, n ≤ m ∧ (r m).slot.agent = .seq

/-- (d) The sink is ready infinitely often, and an emitting command enabled infinitely often eventually steps. -/
def SinkFair (r : Nat → State) : Prop :=
  (∀ n, ∃ m, n ≤ m ∧ (r m).slot.outReady = true) ∧
  ∀ n, (∀ j, n ≤ j → ∃ m, j ≤ m ∧ seqEnabled (r m) = true ∧ portOutValid (r m) = true) →
    ∃ m, n ≤ m ∧ (r m).slot.agent = .seq ∧ seqEnabled (r m) = true ∧ portOutValid (r m) = true

/-- The runs on which the liveness claims hold (60_exceptions.md R196). -/
def FairRun (r : Nat → State) : Prop := IsRun r ∧ TmrFair r ∧ IntFair r ∧ SeqFair r ∧ SinkFair r

end Sys2Proof.Machine
end

