-- ==== Sys2Proof/Certificates/Slice0/Obligations.lean ====
section
/-! DEFINITION. The statements for the provers. Each docstring names the rule of spec/ it formalises. A next state is
given by an equation, so that everything the equation does not name is unchanged. -/

open Sys2Proof Sys2Proof.Machine

/-! ### Reset, boot and the step -/

/-- 10_state.md R43: every row of the reset table. -/
def Obligations.ResetTable : Prop :=
  State.reset.pc = 0 ∧ (∀ p, State.reset.pin p = .hiz) ∧
  (State.reset.cmp = none ∧ State.reset.cnt = none ∧ State.reset.raw = none ∧ State.reset.sum = none ∧
    State.reset.k = none ∧ State.reset.reading = none ∧ State.reset.mn = none ∧ State.reset.mx = none ∧
    State.reset.event = none) ∧
  (∀ i, State.reset.hist.read i = 0) ∧ State.reset.wp = 0 ∧ State.reset.inpeak = false ∧
  State.reset.dflag = false ∧ State.reset.ie = false ∧
  (State.reset.trun = false ∧ State.reset.tfired = false ∧ State.reset.tpend = false ∧ State.reset.opend = false ∧
    State.reset.sleeping = false) ∧
  State.reset.fault = none ∧ State.reset.trace = []

/-- 70_reset_and_hazards.md R212 step 2, with the model's `booted` bit and the choice that boot is SEQ's first turn
(log 7). -/
def Obligations.BootStepEnablesInterrupts : Prop :=
  ∀ s : State, s.cfg.legal = true → s.fault = none → s.booted = false → s.slot.agent = .seq →
    step s = .next (State.passSlot { s with booted := true, ie := true })

/-- 40_sequencer.md R90 for a word that decodes: the step is the command's own effect, then the slot passes (the
model's interleaving, log 4). -/
def Obligations.StepRunsTheDecodedCommand : Prop :=
  ∀ (s : State) (w : Word) (i : Instr), s.cfg.legal = true → s.fault = none → s.booted = true →
    s.sleeping = false → s.slot.agent = .seq → s.cfg.rom[s.pc.toNat]? = some w → decode w = .ok i →
    step s = onNext State.passSlot (exec i s)

/-- 60_exceptions.md R186 and 40_sequencer.md R90: a fetch at `pc ≥ ROM_SIZE` and a word that decodes to nothing
record their fault and change nothing else (the slot passes, log 4). -/
def Obligations.FetchAndDecodeFaults : Prop :=
  ∀ s : State, s.cfg.legal = true → s.fault = none → s.booted = true → s.sleeping = false → s.slot.agent = .seq →
    (s.cfg.rom.length ≤ s.pc.toNat → step s = .next (State.passSlot { s with fault := some (.fetch s.pc) })) ∧
    (∀ w e, s.cfg.rom[s.pc.toNat]? = some w → decode w = .error e →
      step s = .next (State.passSlot { s with fault := some (.illegal w) }))

/-- 10_state.md R38: once `fault` is not none no agent takes another step, so nothing clears it; it is none at
reset. -/
def Obligations.FaultIsSticky : Prop :=
  State.reset.fault = none ∧ ∀ (s t : State) (f : FaultRecord), s.fault = some f → step s ≠ .next t

/-- 60_exceptions.md R188: a configuration outside the legal values of 00_scope.md R7 has no run. -/
def Obligations.IllegalConfigurationHasNoRun : Prop :=
  ∀ s : State,
    ¬(1 ≤ s.cfg.window ∧ s.cfg.window ≤ 65535 ∧ 1 ≤ s.cfg.samples ∧ s.cfg.samples ≤ 65537 ∧
      s.cfg.thrNum ≤ s.cfg.thrDen ∧ 1 ≤ s.cfg.thrDen ∧ s.cfg.thrDen ≤ 65535 ∧ s.cfg.delayCycles = 7 ∧
      1 ≤ s.cfg.dischargeTicks ∧ s.cfg.rom.length ≤ 256) ↔
    step s = .refused .illegalConfiguration

/-- The model's loader (log 8): after `withFetchWord` the very next step performs the command. -/
def Obligations.WithFetchWordRunsTheCommand : Prop :=
  ∀ (s : State) (w : Word) (i : Instr), s.cfg.legal = true → decode w = .ok i →
    (s.withFetchWord 16 w.toNat).cfg.rom[s.pc.toNat]? = some w ∧
    (∀ j, j < s.cfg.rom.length → j ≠ s.pc.toNat →
      (s.withFetchWord 16 w.toNat).cfg.rom[j]? = s.cfg.rom[j]?) ∧
    step (s.withFetchWord 16 w.toNat) = onNext State.passSlot (exec i (s.withFetchWord 16 w.toNat))

/-! ### System commands and branches -/

/-- 40_sequencer.md R91, R92, R93. -/
def Obligations.NopCliSei : Prop :=
  (decode 0x0000 = .ok .nop ∧ ∀ s : State, exec .nop s = .next { s with pc := s.pc + 1 }) ∧
  (decode 0x0100 = .ok .cli ∧ ∀ s : State, exec .cli s = .next { s with ie := false, pc := s.pc + 1 }) ∧
  (decode 0x0200 = .ok .sei ∧ ∀ s : State,
    ∃ t, exec .sei s = .next t ∧ t = { s with ie := true, pc := s.pc + 1 } ∧
      ∀ src, s.fault = none → s.pending src = true → intEnabled src t = true)

/-- 40_sequencer.md R94: enable and suspend in one step; no SEQ command can run before a delivery, and a pending
interrupt is deliverable at once. -/
def Obligations.SleepenEnablesAndSuspends : Prop :=
  decode 0x0300 = .ok .sleepen ∧ ∀ s : State,
    ∃ t, exec .sleepen s = .next t ∧ t = { s with ie := true, sleeping := true, pc := s.pc + 1 } ∧
      seqEnabled t = false ∧ (∀ src, s.fault = none → s.pending src = true → intEnabled src t = true)

/-- 40_sequencer.md R100, R101, R102: the target is `(pc + sext_8(off8)) mod 2^8`; only `pc` is written. -/
def Obligations.BraBflagBnflag : Prop :=
  ∀ (low : BitVec 8) (off : Int) (s : State),
    (decode ((0x70 : BitVec 8) ++ low) = .ok (.bra low.toInt) ∧
      decode ((0x71 : BitVec 8) ++ low) = .ok (.bflag low.toInt) ∧
      decode ((0x72 : BitVec 8) ++ low) = .ok (.bnflag low.toInt)) ∧
    ∃ target : RomIndex, (target.toNat : Int) = ((s.pc.toNat : Int) + off) % 2 ^ 8 ∧
      exec (.bra off) s = .next { s with pc := target } ∧
      exec (.bflag off) s = .next { s with pc := if s.dflag = true then target else s.pc + 1 } ∧
      exec (.bnflag off) s = .next { s with pc := if s.dflag = false then target else s.pc + 1 }

/-- 40_sequencer.md R104. -/
def Obligations.BpassBranchesOrFaults : Prop :=
  ∀ (low : BitVec 8) (off : Int) (s : State),
    decode ((0x73 : BitVec 8) ++ low) = .ok (.bpass low.toInt) ∧
    (s.cnt = none → exec (.bpass off) s = .next { s with fault := some (.unwritten .cnt) }) ∧
    (∀ n, s.cnt = some n → s.cmp = none →
      exec (.bpass off) s = .next { s with fault := some (.unwritten .cmp) }) ∧
    (∀ n b, s.cnt = some n → s.cmp = some b →
      ∃ target : RomIndex, (target.toNat : Int) = ((s.pc.toNat : Int) + off) % 2 ^ 8 ∧
        exec (.bpass off) s =
          .next { s with pc := if n ≠ 0 ∧ b = false then target else s.pc + 1 })

/-- 40_sequencer.md R105. -/
def Obligations.BsubBranchesOrFaults : Prop :=
  ∀ (low : BitVec 8) (off : Int) (s : State),
    decode ((0x74 : BitVec 8) ++ low) = .ok (.bsub low.toInt) ∧
    (s.k = none → exec (.bsub off) s = .next { s with fault := some (.unwritten .k) }) ∧
    (∀ i, s.k = some i →
      ∃ target : RomIndex, (target.toNat : Int) = ((s.pc.toNat : Int) + off) % 2 ^ 8 ∧
        exec (.bsub off) s = .next { s with pc := if i.toNat < s.cfg.samples then target else s.pc + 1 })

/-! ### Sense network -/

/-- 41_sense_network.md R111 to R114: the addressed pin takes the mode with one event, even when it has it
already. -/
def Obligations.PinCommandsDriveOnePin : Prop :=
  ∀ (s : State) (p : Pin),
    (decode (0x1000 ||| (if p = .A then 0 else 1)) = .ok (.drvl p) ∧
      ∃ t, exec (.drvl p) s = .next t ∧ PinWritten s t p .driveLow [.pin p .driveLow]) ∧
    (decode (0x1100 ||| (if p = .A then 0 else 1)) = .ok (.drvh p) ∧
      ∃ t, exec (.drvh p) s = .next t ∧ PinWritten s t p .driveHigh [.pin p .driveHigh]) ∧
    (decode (0x1200 ||| (if p = .A then 0 else 1)) = .ok (.floatPin p) ∧
      ∃ t, exec (.floatPin p) s = .next t ∧ PinWritten s t p .hiz [.pin p .hiz]) ∧
    (decode (0x1300 ||| (if p = .A then 0 else 1)) = .ok (.pullup p) ∧
      ∃ t, exec (.pullup p) s = .next t ∧ PinWritten s t p .pullup [.pin p .pullup])

/-- 41_sense_network.md R115. -/
def Obligations.Drvl2DrivesBothPinsLow : Prop :=
  decode 0x1400 = .ok .drvl2 ∧ (∃ e, decode 0x1401 = .error e) ∧
  ∀ s : State, exec .drvl2 s =
    .next { s with
      pinA := .driveLow, pinB := .driveLow, pc := s.pc + 1,
      trace := s.trace ++ [.pin .A .driveLow, .pin .B .driveLow] }

/-- 41_sense_network.md R116 with the `hard()` of R117: hard is one event, resistive is two, and the register the
policy reads must be written. -/
def Obligations.ChgDrivesHighByPolicy : Prop :=
  ∀ (s : State) (p : Pin),
    decode (0x1500 ||| (if p = .A then 0 else 1)) = .ok (.chg p) ∧
    (s.cfg.kickPolicy = .firstPass → s.cnt = none →
      exec (.chg p) s = .next { s with fault := some (.unwritten .cnt) }) ∧
    (s.cfg.kickPolicy = .firstSubsample → s.k = none →
      exec (.chg p) s = .next { s with fault := some (.unwritten .k) }) ∧
    (s.cfg.kickPolicy = .firstPass → ∀ n, s.cnt = some n →
      ∃ t, exec (.chg p) s = .next t ∧ PinWritten s t p .driveHigh
        (if n = 0 then [.pin p .driveHigh] else [.pin p .pullup, .pin p .driveHigh])) ∧
    (s.cfg.kickPolicy = .firstSubsample → ∀ i, s.k = some i →
      ∃ t, exec (.chg p) s = .next t ∧ PinWritten s t p .driveHigh
        (if i = 0 then [.pin p .driveHigh] else [.pin p .pullup, .pin p .driveHigh])) ∧
    (s.cfg.kickPolicy = .alwaysHard →
      ∃ t, exec (.chg p) s = .next t ∧ PinWritten s t p .driveHigh [.pin p .driveHigh])

/-- 41_sense_network.md R121: `cmp` takes the environment's answer, whatever the pins are. -/
def Obligations.CmprdSamplesTheComparator : Prop :=
  decode 0x2000 = .ok .cmprd ∧
  ∀ (s : State) (b : Bool), s.slot.cmpBelow = b → exec .cmprd s = .next { s with cmp := some b, pc := s.pc + 1 }

/-- 41_sense_network.md R120: under `CAL7` the event `DELAY(7)`, under `ZERO` nothing. -/
def Obligations.CdelayTracesTheDelay : Prop :=
  decode 0x2100 = .ok .cdelay ∧
  ∀ s : State,
    (s.cfg.chargeDelay = .zero → exec .cdelay s = .next { s with pc := s.pc + 1 }) ∧
    (s.cfg.chargeDelay = .cal7 →
      exec .cdelay s = .next { s with pc := s.pc + 1, trace := s.trace ++ [.delay s.cfg.delayCycles] }) ∧
    (s.cfg.legal = true → s.cfg.delayCycles = 7)

/-- 41_sense_network.md R122: the comparator answer is read by `CMPRD` alone; every other command does the same under
either answer. -/
def Obligations.OnlyCmprdReadsTheComparator : Prop :=
  ∀ (i : Instr) (s : State) (b : Bool), i ≠ .cmprd →
    exec i { s with slot := { s.slot with cmpBelow := b } } =
      onNext (fun t => { t with slot := { t.slot with cmpBelow := b } }) (exec i s)

/-! ### Discharge timer -/

/-- 42_discharge_timer.md R125. -/
def Obligations.DtstartOpensTheWindow : Prop :=
  decode 0x3000 = .ok .dtstart ∧
  ∀ s : State, exec .dtstart s =
    .next { s with dflag := true, trun := true, tfired := false, tpend := false, pc := s.pc + 1 }

/-- 42_discharge_timer.md R126: only `trun` is cleared; a pending expiry stays deliverable, an expiry not yet fired
is cancelled. -/
def Obligations.DtstopStopsTheCountdown : Prop :=
  decode 0x3100 = .ok .dtstop ∧
  ∀ s : State, ∃ t, exec .dtstop s = .next t ∧ t = { s with trun := false, pc := s.pc + 1 } ∧
    tmrEnabled t = false ∧ intEnabled .timer t = intEnabled .timer s

/-- 42_discharge_timer.md R130: TMR's step, and no step of TMR where it is not enabled (log 6). -/
def Obligations.TimerExpiryStep : Prop :=
  ∀ s : State, s.cfg.legal = true → s.fault = none → s.slot.agent = .tmr →
    (s.trun = true → s.tfired = false →
      step s = .next (State.passSlot { s with tpend := true, tfired := true })) ∧
    ((s.trun = false ∨ s.tfired = true) → step s = .next s.passSlot)

/-- 42_discharge_timer.md R131: the handler writes `dflag <- 0; tpend <- 0` and nothing else, and no other step of
the machine writes 0 to `dflag`; beside it, `dflag` becomes 1 through `DTSTART` alone (10_state.md R32). -/
def Obligations.DischargeFlagHasTwoWriters : Prop :=
  (∀ s : State, handler .timer s = { s with dflag := false, tpend := false }) ∧
  (∀ s t : State, step s = .next t → s.dflag = true → t.dflag = false →
    s.slot.agent = .int .timer ∧ intEnabled .timer s = true) ∧
  (∀ s t : State, step s = .next t → s.dflag = false → t.dflag = true → RunsCommand s .dtstart)

/-- 42_discharge_timer.md R132: once the expiry has fired it does not fire again before the next `DTSTART`. -/
def Obligations.OneExpiryPerWindow : Prop :=
  ∀ s t : State, step s = .next t → s.tfired = true →
    tmrEnabled s = false ∧ (t.tfired = false → RunsCommand s .dtstart)

/-! ### Sample acquirer -/

/-- 43_sample_acquirer.md R140, R144. -/
def Obligations.CntclrAndAccclr : Prop :=
  (decode 0x4000 = .ok .cntclr ∧ ∀ s : State, exec .cntclr s = .next { s with cnt := some 0, pc := s.pc + 1 }) ∧
  (decode 0x4300 = .ok .accclr ∧
    ∀ s : State, exec .accclr s = .next { s with sum := some 0, k := some 0, pc := s.pc + 1 })

/-- 43_sample_acquirer.md R141: the increment wraps at 2^16. -/
def Obligations.CntincWrapsAtSixteenBits : Prop :=
  decode 0x4100 = .ok .cntinc ∧
  ∀ s : State,
    (s.cnt = none → exec .cntinc s = .next { s with fault := some (.unwritten .cnt) }) ∧
    (∀ n, s.cnt = some n → ∃ n' : Count, n'.toNat = (n.toNat + 1) % 2 ^ 16 ∧
      exec .cntinc s = .next { s with cnt := some n', pc := s.pc + 1 })

/-- 43_sample_acquirer.md R143: a wrapped counter saturates to 0xFFFF. -/
def Obligations.RawsetSaturatesAWrappedCounter : Prop :=
  decode 0x4200 = .ok .rawset ∧
  ∀ s : State,
    (s.cnt = none → exec .rawset s = .next { s with fault := some (.unwritten .cnt) }) ∧
    (∀ n, s.cnt = some n → ∃ r : Count, r.toNat = (if n.toNat = 0 then 0xFFFF else n.toNat) ∧
      exec .rawset s = .next { s with raw := some r, pc := s.pc + 1 })

/-- 43_sample_acquirer.md R145: the checks in the order raw, sum, k, range; then the exact sum and index. -/
def Obligations.AccaddAccumulatesExactly : Prop :=
  decode 0x4400 = .ok .accadd ∧
  ∀ s : State,
    (s.raw = none → exec .accadd s = .next { s with fault := some (.unwritten .raw) }) ∧
    (s.raw ≠ none → s.sum = none → exec .accadd s = .next { s with fault := some (.unwritten .sum) }) ∧
    (s.raw ≠ none → s.sum ≠ none → s.k = none →
      exec .accadd s = .next { s with fault := some (.unwritten .k) }) ∧
    (∀ r t i, s.raw = some r → s.sum = some t → s.k = some i →
      (2 ^ 32 - 1 < t.toNat + r.toNat ∨ 2 ^ 17 - 1 < i.toNat + 1 →
        exec .accadd s = .next { s with fault := some (.range .accadd) }) ∧
      (t.toNat + r.toNat ≤ 2 ^ 32 - 1 → i.toNat + 1 ≤ 2 ^ 17 - 1 →
        ∃ (t' : Total) (i' : SubIndex), t'.toNat = t.toNat + r.toNat ∧ i'.toNat = i.toNat + 1 ∧
          exec .accadd s = .next { s with sum := some t', k := some i', pc := s.pc + 1 }))

/-- 43_sample_acquirer.md R146: the truncated quotient by the configured `SAMPLES`. -/
def Obligations.AvgDividesWithTruncation : Prop :=
  decode 0x4500 = .ok .avg ∧
  ∀ s : State,
    (s.sum = none → exec .avg s = .next { s with fault := some (.unwritten .sum) }) ∧
    (∀ t, s.sum = some t → 0xFFFF < t.toNat / s.cfg.samples →
      exec .avg s = .next { s with fault := some (.range .avg) }) ∧
    (∀ t, s.sum = some t → t.toNat / s.cfg.samples ≤ 0xFFFF →
      ∃ q : Count, q.toNat = t.toNat / s.cfg.samples ∧
        exec .avg s = .next { s with reading := some q, pc := s.pc + 1 })

/-- 43_sample_acquirer.md R150, R151: while at most `SAMPLES` raw samples are summed, `ACCADD` and `AVG` never
overflow, and the average of `SAMPLES` of them is at least 1. -/
def Obligations.AcquisitionNeverOverflows : Prop :=
  ∀ s : State, s.cfg.legal = true → s.AccumulatorOk → s.RawOk →
    (∀ r t i, s.raw = some r → s.sum = some t → s.k = some i → i.toNat < s.cfg.samples →
      ∃ u, exec .accadd s = .next u ∧ u.fault = s.fault ∧ u.AccumulatorOk ∧
        u.k = some (i + 1) ∧ (i + 1).toNat ≤ s.cfg.samples) ∧
    (∀ t i, s.sum = some t → s.k = some i → i.toNat = s.cfg.samples →
      ∃ u q, exec .avg s = .next u ∧ u.fault = s.fault ∧ u.reading = some q ∧ 1 ≤ q.toNat)

/-! ### Touch detector -/

/-- 44_touch_detector.md R160: the slot at `wp` takes the reading, every other slot keeps its value, and `wp` moves
on modulo WINDOW. -/
def Obligations.PushOverwritesTheOldestSlot : Prop :=
  decode 0x5000 = .ok .push ∧
  ∀ s : State,
    (s.reading = none → exec .push s = .next { s with fault := some (.unwritten .reading) }) ∧
    (∀ r, s.reading = some r → s.HistoryOk →
      ∃ t, exec .push s = .next t ∧ t.hist.read s.wp = r ∧
        (∀ j, j ≠ s.wp → t.hist.read j = s.hist.read j) ∧
        t = { s with hist := t.hist, wp := (s.wp + 1) % s.cfg.window, pc := s.pc + 1 } ∧ t.HistoryOk)

/-- 20_memory.md R52 and 44_touch_detector.md R160: a push drops the oldest value of the window and appends the
reading as its newest. -/
def Obligations.PushShiftsTheWindow : Prop :=
  ∀ (s t : State) (r : Count), s.HistoryOk → s.reading = some r → exec .push s = .next t →
    t.hist.oldestFirst t.cfg.window t.wp = (s.hist.oldestFirst s.cfg.window s.wp).drop 1 ++ [r]

/-- 44_touch_detector.md R161: after the pushes of `xs` since reset the window holds the most recent WINDOW values of
the WINDOW zeros of reset followed by `xs`. -/
def Obligations.WindowHoldsTheMostRecentReadings : Prop :=
  ∀ (c : Config) (x : Slot) (later : List Slot) (xs : List Count) (t : State), c.legal = true →
    PushedFrom (State.resetWith c x later) xs t →
    t.hist.oldestFirst c.window t.wp = (List.replicate c.window 0 ++ xs).drop xs.length

/-- 44_touch_detector.md R162: the least and the greatest value over every slot, for any history and any `wp`. -/
def Obligations.ScanFindsTheExtremes : Prop :=
  decode 0x5100 = .ok .scan ∧
  ∀ s : State, 1 ≤ s.cfg.window →
    ∃ lo hi : Count, exec .scan s = .next { s with mn := some lo, mx := some hi, pc := s.pc + 1 } ∧
      (∃ i, i < s.cfg.window ∧ s.hist.read i = lo) ∧ (∃ i, i < s.cfg.window ∧ s.hist.read i = hi) ∧
      (∀ i, i < s.cfg.window → lo.toNat ≤ (s.hist.read i).toNat ∧ (s.hist.read i).toNat ≤ hi.toNat)

/-- 44_touch_detector.md R171: a scan after a push of `reading` bounds it, so the diagnostic record is handed over
where the sink is ready. -/
def Obligations.ScanAfterPushBoundsTheReading : Prop :=
  ∀ (s t u : State) (r : Count), s.HistoryOk → s.reading = some r → exec .push s = .next t →
    exec .scan t = .next u →
    ∃ lo hi : Count, u.mn = some lo ∧ u.mx = some hi ∧ lo.toNat ≤ r.toNat ∧ r.toNat ≤ hi.toNat ∧
      (u.slot.outReady = true → ∃ v, exec .emitdg u = .next v ∧ v.fault = u.fault ∧ v.pc = u.pc + 1)

/-- 44_touch_detector.md R163 and the table of R165. -/
def Obligations.EvalAppliesTheTransitionRule : Prop :=
  decode 0x5200 = .ok .eval ∧
  ∀ s : State,
    (s.reading = none → exec .eval s = .next { s with fault := some (.unwritten .reading) }) ∧
    (s.reading ≠ none → s.mx = none → exec .eval s = .next { s with fault := some (.unwritten .mx) }) ∧
    (∀ r hi, s.reading = some r → s.mx = some hi →
      ∃ cond : Bool, (cond = true ↔ r.toNat * s.cfg.thrDen < hi.toNat * s.cfg.thrNum) ∧
        exec .eval s =
          .next { s with
            event := some (match s.inpeak, cond with
              | false, true => true
              | false, false => false
              | true, true => false
              | true, false => false),
            inpeak := cond, pc := s.pc + 1 })

/-- 44_touch_detector.md R173: an onset needs a reading strictly below the window's maximum. -/
def Obligations.OnsetNeedsADip : Prop :=
  ∀ (s t : State) (r hi : Count), s.cfg.legal = true → s.reading = some r → s.mx = some hi →
    exec .eval s = .next t → t.inpeak = true → r.toNat < hi.toNat

/-- 44_touch_detector.md R172: between two onsets there is an evaluation whose condition does not hold: the
evaluation right after an onset is never an onset. -/
def Obligations.OnsetsAreEdges : Prop :=
  ∀ s t u v : State, exec .eval s = .next t → s.fault = none → t.fault = none → t.event = some true →
    u.inpeak = t.inpeak → u.fault = none → exec .eval u = .next v → v.fault = none → v.event = some false

/-- 20_memory.md R51: in any step the history and the write pointer change through `PUSH` alone, and then in the one
slot `hist[wp]`. -/
def Obligations.OnlyPushWritesTheHistory : Prop :=
  ∀ s t : State, step s = .next t →
    (RunsCommand s .push ∨ (t.hist = s.hist ∧ t.wp = s.wp)) ∧
    (∀ j, j ≠ s.wp → t.hist.read j = s.hist.read j)

/-! ### Output records -/

/-- 44_touch_detector.md R166 with the handshake of 10_state.md R35. The last clause, the hold, is the model's: a turn
in which the command holds leaves the state as it is (log 6). -/
def Obligations.EmitevHandsOverTheTouch : Prop :=
  decode 0x6000 = .ok .emitev ∧
  ∀ s : State,
    (s.event = none → exec .emitev s = .next { s with fault := some (.unwritten .event) }) ∧
    (s.event = some false → exec .emitev s = .next { s with pc := s.pc + 1 }) ∧
    (s.event = some true → s.slot.outReady = true →
      exec .emitev s = .next { s with trace := s.trace ++ [.touch], pc := s.pc + 1 }) ∧
    (s.event = some true → s.slot.outReady = false → exec .emitev s = .next s)

/-- 44_touch_detector.md R167 where the sink is ready, and the hold of a record in order where it is not.
That hold, the last clause, is the model's: a turn in which the command holds leaves the state as it is (log 6). Which
unwritten register is named, and what a bad operand does while the sink is not ready, is the next statement. -/
def Obligations.EmitdgHandsOverTheDiagnosis : Prop :=
  decode 0x6100 = .ok .emitdg ∧
  ∀ s : State,
    (s.slot.outReady = true → s.reading = none ∨ s.mn = none ∨ s.mx = none →
      ∃ x, exec .emitdg s = .next { s with fault := some (.unwritten x) } ∧
        ((x = .reading ∧ s.reading = none) ∨ (x = .mn ∧ s.mn = none) ∨ (x = .mx ∧ s.mx = none))) ∧
    (∀ r lo hi, s.reading = some r → s.mn = some lo → s.mx = some hi →
      (s.slot.outReady = true → ¬(lo.toNat ≤ r.toNat ∧ r.toNat ≤ hi.toNat) →
        exec .emitdg s = .next { s with fault := some (.range .emitdg) }) ∧
      (lo.toNat ≤ r.toNat → r.toNat ≤ hi.toNat → s.slot.outReady = true →
        ∃ d0 d1 d2 : Count, d0.toNat = hi.toNat - lo.toNat ∧ d1.toNat = r.toNat - lo.toNat ∧
          d2.toNat = hi.toNat - r.toNat ∧
          exec .emitdg s = .next { s with trace := s.trace ++ [.diag r lo hi d0 d1 d2], pc := s.pc + 1 }) ∧
      (lo.toNat ≤ r.toNat → r.toNat ≤ hi.toNat → s.slot.outReady = false → exec .emitdg s = .next s))

/-- The model's reading of 44_touch_detector.md R167 beside 40_sequencer.md R96: the operand checks of `EMITDG` come
before the hold, so a bad operand faults whatever OUT_READY is (log 10), and they come in the order reading, mn, mx,
range (log 17). -/
def Obligations.EmitdgChecksBeforeItHolds : Prop :=
  ∀ s : State,
    (s.reading = none → exec .emitdg s = .next { s with fault := some (.unwritten .reading) }) ∧
    (s.reading ≠ none → s.mn = none → exec .emitdg s = .next { s with fault := some (.unwritten .mn) }) ∧
    (s.reading ≠ none → s.mn ≠ none → s.mx = none →
      exec .emitdg s = .next { s with fault := some (.unwritten .mx) }) ∧
    (∀ r lo hi, s.reading = some r → s.mn = some lo → s.mx = some hi →
      ¬(lo.toNat ≤ r.toNat ∧ r.toNat ≤ hi.toNat) →
      exec .emitdg s = .next { s with fault := some (.range .emitdg) })

/-- 10_state.md R41: the output ports that show a register; exactly when `OUT_VALID` is 1, for `EMITEV` and for
`EMITDG`, and `OUT_KIND` and `OUT_DATA` of the record then; exactly when `TMR_START` is asserted. The ports as
functions of the state before the step, with no `OUT_KIND` and `OUT_DATA` while `OUT_VALID` is 0, are the model's
(log 16). -/
def Obligations.OutputPortsShowTheState : Prop :=
  ∀ s : State,
    (portPaMode s = s.pinA.code ∧ portPbMode s = s.pinB.code ∧ portTmrRun s = s.trun ∧ portSleep s = s.sleeping) ∧
    (portTmrStart s = true ↔ s.fault = none ∧ RunsCommand s .dtstart) ∧
    (portOutValid s = true → s.booted = true ∧ s.sleeping = false ∧ s.fault = none ∧
      (commandAtPc s = some .emitev ∨ commandAtPc s = some .emitdg)) ∧
    (s.booted = true → s.sleeping = false → s.fault = none → commandAtPc s = some .emitev →
      (portOutValid s = true ↔ s.event = some true)) ∧
    (s.booted = true → s.sleeping = false → s.fault = none → commandAtPc s = some .emitdg →
      (portOutValid s = true ↔ ∃ r lo hi, s.reading = some r ∧ s.mn = some lo ∧ s.mx = some hi ∧
        lo.toNat ≤ r.toNat ∧ r.toNat ≤ hi.toNat)) ∧
    (portOutValid s = true → commandAtPc s = some .emitev → portOutKind s = some 0 ∧ portOutData s = some 0) ∧
    (portOutValid s = true → commandAtPc s = some .emitdg → ∀ r lo hi, s.reading = some r → s.mn = some lo →
      s.mx = some hi → portOutKind s = some 1 ∧
        ∃ d : BitVec 96, portOutData s = some d ∧ d.extractLsb' 80 16 = r ∧ d.extractLsb' 64 16 = lo ∧
          d.extractLsb' 48 16 = hi ∧ d.extractLsb' 32 16 = hi - lo ∧ d.extractLsb' 16 16 = r - lo ∧
          d.extractLsb' 0 16 = hi - r) ∧
    (portOutValid s = false → portOutKind s = none ∧ portOutData s = none)

/-! ### Interrupts, holds and faults -/

/-- 60_exceptions.md R190, R192, R193, R194: a deliverable source runs its handler, wakes SEQ and changes nothing
else; a source that is not deliverable is not delivered (log 6). -/
def Obligations.InterruptDelivery : Prop :=
  ∀ s : State, s.cfg.legal = true → s.fault = none →
    (s.slot.agent = .int .timer → s.ie = true → s.tpend = true →
      step s = .next (State.passSlot { s with dflag := false, tpend := false, sleeping := false })) ∧
    (s.slot.agent = .int .other → s.ie = true → s.opend = true →
      step s = .next (State.passSlot { s with opend := false, sleeping := false })) ∧
    (∀ src, s.slot.agent = .int src → (s.ie = false ∨ s.pending src = false) → step s = .next s.passSlot)

/-- 60_exceptions.md R191 and 92_eei_decisions.md D17: the order of two deliveries is unobservable. -/
def Obligations.InterruptOrderIsUnobservable : Prop :=
  ∀ s : State, intTurn .other (intTurn .timer s) = intTurn .timer (intTurn .other s)

/-- 60_exceptions.md R189: ENV's request sets `opend`, merges with a pending one, and changes nothing else. -/
def Obligations.EnvironmentRequestMerges : Prop :=
  ∀ s : State, s.cfg.legal = true → s.fault = none → s.slot.agent = .env →
    step s = .next (State.passSlot { s with opend := true }) ∧ (s.opend = true → step s = .next s.passSlot)

/-- 40_sequencer.md R95: a suspended SEQ has no step, no step moves its `pc`, and only a delivery wakes it. -/
def Obligations.OnlyADeliveryWakesSeq : Prop :=
  ∀ s t : State, s.booted = true → s.sleeping = true → step s = .next t →
    t.pc = s.pc ∧ (s.slot.agent = .seq → t = s.passSlot) ∧
    (t.sleeping = false → ∃ src, s.slot.agent = .int src ∧ intEnabled src s = true)

/-- 40_sequencer.md R96 as the model reads it (log 10): where SEQ is not enabled its turn passes with nothing
changed; where it is, the turn runs a command or raises a fetch or decode fault. -/
def Obligations.SeqHoldsWhereItIsNotEnabled : Prop :=
  ∀ s : State, s.cfg.legal = true → s.fault = none → s.booted = true → s.slot.agent = .seq →
    (seqEnabled s = false → step s = .next s.passSlot) ∧
    (seqEnabled s = true → ∃ t, seqCommand s = .next t ∧ step s = .next t.passSlot ∧
      (t.fault = none → ∀ i, commandAtPc s = some i → t.pc = s.pc + 1 ∨ offsetOperandOf i ≠ none))

/-- 60_exceptions.md R187: a command that faults writes `fault` and nothing else. -/
def Obligations.CommandFaultsArePrecise : Prop :=
  ∀ (i : Instr) (s t : State) (f : FaultRecord), s.fault = none → exec i s = .next t → t.fault = some f →
    t = { s with fault := some f }

/-- 60_exceptions.md R186, the "raised by" column: which commands can raise which fault. -/
def Obligations.EachFaultHasItsRaisers : Prop :=
  ∀ (i : Instr) (s t : State) (f : FaultRecord), s.fault = none → exec i s = .next t → t.fault = some f →
    match f with
    | .fetch _ => False
    | .illegal _ => False
    | .unwritten _ => i.mnemonic ∈ ["CHG", "BPASS", "BSUB", "CNTINC", "RAWSET", "ACCADD", "AVG", "PUSH", "EVAL",
        "EMITEV", "EMITDG"]
    | .range .accadd => i = .accadd
    | .range .avg => i = .avg
    | .range .emitdg => i = .emitdg

/-! ### Whole-machine rules -/

/-- 20_memory.md R62 and 10_state.md R40: no step changes the ROM or any other part of the configuration. -/
def Obligations.ConfigurationNeverChanges : Prop :=
  ∀ s t : State, Reaches s t → t.cfg = s.cfg

/-- 00_scope.md R12: the port trace only grows, and only a SEQ command makes it grow. -/
def Obligations.TraceOnlyGrows : Prop :=
  ∀ s t : State, step s = .next t →
    ∃ es, t.trace = s.trace ++ es ∧ (es ≠ [] → ∃ i, RunsCommand s i ∧ t.fault = none)

/-- The invariant of the model holds after reset, for every legal configuration and whatever the environment has laid
down. -/
def Obligations.ResetMeetsTheInvariant : Prop :=
  ∀ (c : Config) (x : Slot) (later : List Slot), c.legal = true → (State.resetWith c x later).Inv

/-- Every step, of whichever agent, from whatever state meets the invariant, keeps it: the history stays canonical
and `wp` inside the window, no expiry is lost, a suspended SEQ can be woken, a Raw Sample is never 0, the sum stays
within `k` samples, and an onset leaves `InPeak` (20_memory.md R51, 42_discharge_timer.md R132, 60_exceptions.md R203,
43_sample_acquirer.md R148 to R151, 44_touch_detector.md R165). -/
def Obligations.StepKeepsTheInvariant : Prop :=
  ∀ s t : State, s.Inv → step s = .next t → t.Inv

/-- 42_discharge_timer.md R133 and 60_exceptions.md R196: on a fair run, a SEQ suspended while its discharge window is
open, the countdown running or the expiry pending, is woken, at the command after its `SLEEPEN`. -/
def Obligations.ASuspendedSeqIsWoken : Prop :=
  ∀ (r : Nat → State) (n : Nat), IsRun r → TmrFair r → IntFair r → (r n).TimerOk → (r n).SleepOk →
    (r n).sleeping = true → (r n).dflag = true → ((r n).trun = true ∨ (r n).tpend = true) →
    ∃ m, n ≤ m ∧ (r m).sleeping = false ∧ (r m).pc = (r n).pc

/-! ### Encoding -/

/-- 30_encoding.md R70 to R77: decoding the word of a well-formed command gives the command back. -/
def Obligations.DecodeOfEncode : Prop :=
  ∀ i : Instr, i.wellFormed = true → decode (encode i) = .ok i

/-- 30_encoding.md R77, R80: a word that decodes is the encoding of its command, which is well formed: no bit of a
legal word is dropped. -/
def Obligations.EncodeOfDecode : Prop :=
  ∀ (w : Word) (i : Instr), decode w = .ok i → encode i = w ∧ i.wellFormed = true

/-- 40_sequencer.md R97: `decode` gives the command of the row of 30_encoding.md R77 whose mask and match the word
fits, with `p = w[0]` or `off8 = w[7:0]`, and refuses a word no row fits. -/
def Obligations.DecodeFollowsTheTable : Prop :=
  ∀ w : Word,
    (∀ r, r ∈ opcodeTable → r.covers w = true →
      ∃ i, decode w = .ok i ∧ i.mnemonic = r.mnemonic ∧
        (∀ p, pinOperandOf i = some p → p = if w.getLsbD 0 then .B else .A) ∧
        (∀ off, offsetOperandOf i = some off → off = (w.extractLsb' 0 8).toInt)) ∧
    ((∀ r, r ∈ opcodeTable → r.covers w = false) → ∃ e, decode w = .error e)

/-- 30_encoding.md R80: no word matches two rows. -/
def Obligations.NoWordMatchesTwoRows : Prop :=
  ∀ (w : Word) (r q : OpcodeRow), r ∈ opcodeTable → q ∈ opcodeTable → r.covers w = true → q.covers w = true → r = q

/-- 30_encoding.md R78: the illegal words are exactly these. -/
def Obligations.IllegalWordsAreExactlyThese : Prop :=
  ∀ w : Word, (∃ e, decode w = .error e) ↔
    let grp := w.toNat / 2 ^ 12
    let op := w.toNat / 2 ^ 8 % 16
    let low := w.toNat % 2 ^ 8
    8 ≤ grp ∨ (grp = 0 ∧ (4 ≤ op ∨ low ≠ 0)) ∨ (grp = 1 ∧ (6 ≤ op ∨ low / 2 ≠ 0 ∨ w = 0x1401)) ∨
    (grp = 2 ∧ (2 ≤ op ∨ low ≠ 0)) ∨ (grp = 3 ∧ (2 ≤ op ∨ low ≠ 0)) ∨ (grp = 4 ∧ (6 ≤ op ∨ low ≠ 0)) ∨
    (grp = 5 ∧ (3 ≤ op ∨ low ≠ 0)) ∨ (grp = 6 ∧ (2 ≤ op ∨ low ≠ 0)) ∨ (grp = 7 ∧ 5 ≤ op)

/-- 30_encoding.md R77: a few words written out bit by bit from their formats. -/
def Obligations.WrittenOutWordsDecode : Prop :=
  decode 0b0000001100000000 = .ok .sleepen ∧ decode 0b0001010100000001 = .ok (.chg .B) ∧
  decode 0b0010000000000000 = .ok .cmprd ∧ decode 0b0011000000000000 = .ok .dtstart ∧
  decode 0b0100010000000000 = .ok .accadd ∧ decode 0b0101001000000000 = .ok .eval ∧
  decode 0b0110000100000000 = .ok .emitdg ∧ decode 0b0111001111111000 = .ok (.bpass (-8))
end

