-- ==== Sys2Proof/Laws/Memory.lean ====
section
/-! SUPPORT. The laws of the history memory: a read after a write, the canonical form, and the two folds of `SCAN`. -/

namespace Sys2Proof.Machine

@[simp] theorem Memory.read_nil (i : Nat) : Memory.read [] i = 0 := rfl

theorem Memory.read_cons (a : Nat) (v : Count) (m : Memory) (i : Nat) :
    Memory.read ((a, v) :: m) i = if a = i then v else Memory.read m i := rfl

theorem Memory.canonicalFrom_cons {lo hi a : Nat} {v : Count} {m : Memory} :
    Memory.canonicalFrom lo hi ((a, v) :: m) = true ↔
      lo ≤ a ∧ a < hi ∧ v ≠ 0 ∧ Memory.canonicalFrom (a + 1) hi m = true := by
  simp [Memory.canonicalFrom]

/-- A lower bound on the indices may be lowered. -/
theorem Memory.canonicalFrom_mono {lo lo' hi : Nat} {m : Memory} (h : lo' ≤ lo)
    (hm : Memory.canonicalFrom lo hi m = true) : Memory.canonicalFrom lo' hi m = true := by
  cases m with
  | nil => rfl
  | cons x rest =>
    obtain ⟨a, v⟩ := x
    rw [Memory.canonicalFrom_cons] at hm ⊢
    exact ⟨by omega, hm.2⟩

/-- Below the first index every slot reads as the reset content. -/
theorem Memory.read_below {lo hi i : Nat} {m : Memory} (hm : Memory.canonicalFrom lo hi m = true) (hi' : i < lo) :
    m.read i = 0 := by
  induction m generalizing lo with
  | nil => rfl
  | cons x rest ih =>
    obtain ⟨a, v⟩ := x
    rw [Memory.canonicalFrom_cons] at hm
    rw [Memory.read_cons, if_neg (by omega)]
    exact ih hm.2.2.2 (by omega)

/-- A read of the slot just written gives the value written. -/
theorem Memory.read_write_same {lo hi i : Nat} {m : Memory} (v : Count)
    (hm : Memory.canonicalFrom lo hi m = true) : (m.write i v).read i = v := by
  induction m generalizing lo with
  | nil =>
    unfold Memory.write
    split
    · rename_i hv; exact hv.symm
    · rw [Memory.read_cons, if_pos rfl]
  | cons x rest ih =>
    obtain ⟨a, w⟩ := x
    have hc := Memory.canonicalFrom_cons.mp hm
    unfold Memory.write
    split
    · split
      · rename_i hlt hv
        rw [Memory.read_cons, if_neg (by omega), Memory.read_below hc.2.2.2 (by omega), hv]
      · rw [Memory.read_cons, if_pos rfl]
    · split
      · split
        · rename_i hv
          rw [Memory.read_below hc.2.2.2 (by omega), hv]
        · rw [Memory.read_cons, if_pos rfl]
      · rw [Memory.read_cons, if_neg (by omega)]
        exact ih hc.2.2.2

/-- A write leaves every other slot alone. -/
theorem Memory.read_write_other {i j : Nat} (m : Memory) (v : Count) (h : j ≠ i) :
    (m.write i v).read j = m.read j := by
  induction m with
  | nil =>
    unfold Memory.write
    split
    · rfl
    · rw [Memory.read_cons, if_neg (Ne.symm h)]
  | cons x rest ih =>
    obtain ⟨a, w⟩ := x
    unfold Memory.write
    split
    · split
      · rfl
      · rw [Memory.read_cons, if_neg (Ne.symm h)]
    · split
      · rename_i hia
        split
        · rw [Memory.read_cons, if_neg (by omega)]
        · rw [Memory.read_cons, if_neg (by omega), Memory.read_cons, if_neg (by omega)]
      · rw [Memory.read_cons, Memory.read_cons, ih]

/-- A write inside the bounds keeps the canonical form. -/
theorem Memory.write_canonicalFrom {lo hi i : Nat} {m : Memory} (v : Count)
    (hm : Memory.canonicalFrom lo hi m = true) (hlo : lo ≤ i) (hhi : i < hi) :
    Memory.canonicalFrom lo hi (m.write i v) = true := by
  induction m generalizing lo with
  | nil =>
    unfold Memory.write
    split
    · rfl
    · rename_i hv; exact Memory.canonicalFrom_cons.mpr ⟨hlo, hhi, hv, rfl⟩
  | cons x rest ih =>
    obtain ⟨a, w⟩ := x
    have hc := Memory.canonicalFrom_cons.mp hm
    unfold Memory.write
    split
    · split
      · exact hm
      · rename_i hlt hv
        exact Memory.canonicalFrom_cons.mpr
          ⟨hlo, hhi, hv, Memory.canonicalFrom_cons.mpr ⟨by omega, hc.2⟩⟩
    · split
      · rename_i hia
        split
        · exact Memory.canonicalFrom_mono (by omega) hc.2.2.2
        · rename_i hv
          exact Memory.canonicalFrom_cons.mpr ⟨hlo, hhi, hv, hia ▸ hc.2.2.2⟩
      · exact Memory.canonicalFrom_cons.mpr ⟨hc.1, hc.2.1, hc.2.2.1, ih hc.2.2.2 (by omega)⟩

/-- Every write of the history keeps its canonical form. -/
theorem Memory.write_wf {window i : Nat} {m : Memory} (v : Count) (hm : m.wf window = true) (hi : i < window) :
    (m.write i v).wf window = true := Memory.write_canonicalFrom v hm (Nat.zero_le i) hi

/-- The history after reset is canonical for every window. -/
theorem Memory.reset_wf (window : Nat) : State.reset.hist.wf window = true := rfl

/-- Equal histories are equal data: two canonical histories with the same reads are the same list. -/
theorem Memory.canonical_ext {lo hi : Nat} {m n : Memory} (hm : Memory.canonicalFrom lo hi m = true)
    (hn : Memory.canonicalFrom lo hi n = true) (h : ∀ i, m.read i = n.read i) : m = n := by
  induction m generalizing lo n with
  | nil =>
    cases n with
    | nil => rfl
    | cons y rest =>
      obtain ⟨b, w⟩ := y
      have hc := Memory.canonicalFrom_cons.mp hn
      have := h b
      rw [Memory.read_cons, if_pos rfl] at this
      exact absurd this.symm hc.2.2.1
  | cons x rest ih =>
    obtain ⟨a, v⟩ := x
    have ha := Memory.canonicalFrom_cons.mp hm
    cases n with
    | nil =>
      have := h a
      rw [Memory.read_cons, if_pos rfl] at this
      exact absurd this ha.2.2.1
    | cons y rest' =>
      obtain ⟨b, w⟩ := y
      have hb := Memory.canonicalFrom_cons.mp hn
      have hab : a = b := by
        rcases Nat.lt_trichotomy a b with hlt | heq | hgt
        · have h1 := h a
          rw [Memory.read_cons, if_pos rfl, Memory.read_cons, if_neg (by omega),
            Memory.read_below hb.2.2.2 (by omega)] at h1
          exact absurd h1 ha.2.2.1
        · exact heq
        · have h1 := h b
          rw [Memory.read_cons, if_neg (by omega), Memory.read_below ha.2.2.2 (by omega), Memory.read_cons,
            if_pos rfl] at h1
          exact absurd h1.symm hb.2.2.1
      subst hab
      have hvw : v = w := by
        have h1 := h a
        rwa [Memory.read_cons, if_pos rfl, Memory.read_cons, if_pos rfl] at h1
      subst hvw
      have hrest : rest = rest' := by
        refine ih ha.2.2.2 hb.2.2.2 fun i => ?_
        have h1 := h i
        rw [Memory.read_cons, Memory.read_cons] at h1
        by_cases hi : a = i
        · subst hi
          rw [Memory.read_below ha.2.2.2 (by omega), Memory.read_below hb.2.2.2 (by omega)]
        · rwa [if_neg hi, if_neg hi] at h1
      rw [hrest]

theorem Count.lower_toNat (a b : Count) : (Count.lower a b).toNat = min a.toNat b.toNat := by
  unfold Count.lower; split <;> omega

theorem Count.upper_toNat (a b : Count) : (Count.upper a b).toNat = max a.toNat b.toNat := by
  unfold Count.upper; split <;> omega

/-- The fold of `SCAN` for the minimum is below every value of the list. -/
theorem Count.foldr_lower_le (l : List Count) {x : Count} (hx : x ∈ l) :
    (l.foldr Count.lower 0xFFFF).toNat ≤ x.toNat := by
  induction l with
  | nil => cases hx
  | cons y rest ih =>
    rw [List.foldr_cons, Count.lower_toNat]
    rcases List.mem_cons.mp hx with rfl | h
    · exact Nat.min_le_left _ _
    · exact Nat.le_trans (Nat.min_le_right _ _) (ih h)

/-- The fold of `SCAN` for the maximum is above every value of the list. -/
theorem Count.le_foldr_upper (l : List Count) {x : Count} (hx : x ∈ l) :
    x.toNat ≤ (l.foldr Count.upper 0).toNat := by
  induction l with
  | nil => cases hx
  | cons y rest ih =>
    rw [List.foldr_cons, Count.upper_toNat]
    rcases List.mem_cons.mp hx with rfl | h
    · exact Nat.le_max_left _ _
    · exact Nat.le_trans (ih h) (Nat.le_max_right _ _)

theorem Memory.mem_slots {window : Nat} {m : Memory} {v : Count} :
    v ∈ m.slots window ↔ ∃ i, i < window ∧ m.read i = v := by
  simp [Memory.slots]

end Sys2Proof.Machine
end

