-- ==== Sys2Proof/Laws/State.lean ====
section
/-! SUPPORT. What each named update of Machine/Ops.lean does to each field of State: one lemma per field per update,
true by rfl, so that no proof unfolds a record update. -/

namespace Sys2Proof.Machine

/-! `setPc` -/
@[simp] theorem State.setPc_cfg (s : State) (a : RomIndex) : (s.setPc a).cfg = s.cfg := rfl
@[simp] theorem State.setPc_booted (s : State) (a : RomIndex) : (s.setPc a).booted = s.booted := rfl
@[simp] theorem State.setPc_slot (s : State) (a : RomIndex) : (s.setPc a).slot = s.slot := rfl
@[simp] theorem State.setPc_plan (s : State) (a : RomIndex) : (s.setPc a).plan = s.plan := rfl
@[simp] theorem State.setPc_tick (s : State) (a : RomIndex) : (s.setPc a).tick = s.tick := rfl
@[simp] theorem State.setPc_pc (s : State) (a : RomIndex) : (s.setPc a).pc = a := rfl
@[simp] theorem State.setPc_pinA (s : State) (a : RomIndex) : (s.setPc a).pinA = s.pinA := rfl
@[simp] theorem State.setPc_pinB (s : State) (a : RomIndex) : (s.setPc a).pinB = s.pinB := rfl
@[simp] theorem State.setPc_cmp (s : State) (a : RomIndex) : (s.setPc a).cmp = s.cmp := rfl
@[simp] theorem State.setPc_cnt (s : State) (a : RomIndex) : (s.setPc a).cnt = s.cnt := rfl
@[simp] theorem State.setPc_raw (s : State) (a : RomIndex) : (s.setPc a).raw = s.raw := rfl
@[simp] theorem State.setPc_sum (s : State) (a : RomIndex) : (s.setPc a).sum = s.sum := rfl
@[simp] theorem State.setPc_k (s : State) (a : RomIndex) : (s.setPc a).k = s.k := rfl
@[simp] theorem State.setPc_reading (s : State) (a : RomIndex) : (s.setPc a).reading = s.reading := rfl
@[simp] theorem State.setPc_hist (s : State) (a : RomIndex) : (s.setPc a).hist = s.hist := rfl
@[simp] theorem State.setPc_wp (s : State) (a : RomIndex) : (s.setPc a).wp = s.wp := rfl
@[simp] theorem State.setPc_mn (s : State) (a : RomIndex) : (s.setPc a).mn = s.mn := rfl
@[simp] theorem State.setPc_mx (s : State) (a : RomIndex) : (s.setPc a).mx = s.mx := rfl
@[simp] theorem State.setPc_inpeak (s : State) (a : RomIndex) : (s.setPc a).inpeak = s.inpeak := rfl
@[simp] theorem State.setPc_event (s : State) (a : RomIndex) : (s.setPc a).event = s.event := rfl
@[simp] theorem State.setPc_dflag (s : State) (a : RomIndex) : (s.setPc a).dflag = s.dflag := rfl
@[simp] theorem State.setPc_ie (s : State) (a : RomIndex) : (s.setPc a).ie = s.ie := rfl
@[simp] theorem State.setPc_trun (s : State) (a : RomIndex) : (s.setPc a).trun = s.trun := rfl
@[simp] theorem State.setPc_tfired (s : State) (a : RomIndex) : (s.setPc a).tfired = s.tfired := rfl
@[simp] theorem State.setPc_tpend (s : State) (a : RomIndex) : (s.setPc a).tpend = s.tpend := rfl
@[simp] theorem State.setPc_opend (s : State) (a : RomIndex) : (s.setPc a).opend = s.opend := rfl
@[simp] theorem State.setPc_sleeping (s : State) (a : RomIndex) : (s.setPc a).sleeping = s.sleeping := rfl
@[simp] theorem State.setPc_fault (s : State) (a : RomIndex) : (s.setPc a).fault = s.fault := rfl
@[simp] theorem State.setPc_trace (s : State) (a : RomIndex) : (s.setPc a).trace = s.trace := rfl

/-! `setPin` -/
@[simp] theorem State.setPin_cfg (s : State) (p : Pin) (m : PinMode) : (s.setPin p m).cfg = s.cfg := rfl
@[simp] theorem State.setPin_booted (s : State) (p : Pin) (m : PinMode) : (s.setPin p m).booted = s.booted := rfl
@[simp] theorem State.setPin_slot (s : State) (p : Pin) (m : PinMode) : (s.setPin p m).slot = s.slot := rfl
@[simp] theorem State.setPin_plan (s : State) (p : Pin) (m : PinMode) : (s.setPin p m).plan = s.plan := rfl
@[simp] theorem State.setPin_tick (s : State) (p : Pin) (m : PinMode) : (s.setPin p m).tick = s.tick := rfl
@[simp] theorem State.setPin_pc (s : State) (p : Pin) (m : PinMode) : (s.setPin p m).pc = s.pc := rfl
@[simp] theorem State.setPin_pinA (s : State) (p : Pin) (m : PinMode) : (s.setPin p m).pinA = if p = .A then m else s.pinA := rfl
@[simp] theorem State.setPin_pinB (s : State) (p : Pin) (m : PinMode) : (s.setPin p m).pinB = if p = .B then m else s.pinB := rfl
@[simp] theorem State.setPin_cmp (s : State) (p : Pin) (m : PinMode) : (s.setPin p m).cmp = s.cmp := rfl
@[simp] theorem State.setPin_cnt (s : State) (p : Pin) (m : PinMode) : (s.setPin p m).cnt = s.cnt := rfl
@[simp] theorem State.setPin_raw (s : State) (p : Pin) (m : PinMode) : (s.setPin p m).raw = s.raw := rfl
@[simp] theorem State.setPin_sum (s : State) (p : Pin) (m : PinMode) : (s.setPin p m).sum = s.sum := rfl
@[simp] theorem State.setPin_k (s : State) (p : Pin) (m : PinMode) : (s.setPin p m).k = s.k := rfl
@[simp] theorem State.setPin_reading (s : State) (p : Pin) (m : PinMode) : (s.setPin p m).reading = s.reading := rfl
@[simp] theorem State.setPin_hist (s : State) (p : Pin) (m : PinMode) : (s.setPin p m).hist = s.hist := rfl
@[simp] theorem State.setPin_wp (s : State) (p : Pin) (m : PinMode) : (s.setPin p m).wp = s.wp := rfl
@[simp] theorem State.setPin_mn (s : State) (p : Pin) (m : PinMode) : (s.setPin p m).mn = s.mn := rfl
@[simp] theorem State.setPin_mx (s : State) (p : Pin) (m : PinMode) : (s.setPin p m).mx = s.mx := rfl
@[simp] theorem State.setPin_inpeak (s : State) (p : Pin) (m : PinMode) : (s.setPin p m).inpeak = s.inpeak := rfl
@[simp] theorem State.setPin_event (s : State) (p : Pin) (m : PinMode) : (s.setPin p m).event = s.event := rfl
@[simp] theorem State.setPin_dflag (s : State) (p : Pin) (m : PinMode) : (s.setPin p m).dflag = s.dflag := rfl
@[simp] theorem State.setPin_ie (s : State) (p : Pin) (m : PinMode) : (s.setPin p m).ie = s.ie := rfl
@[simp] theorem State.setPin_trun (s : State) (p : Pin) (m : PinMode) : (s.setPin p m).trun = s.trun := rfl
@[simp] theorem State.setPin_tfired (s : State) (p : Pin) (m : PinMode) : (s.setPin p m).tfired = s.tfired := rfl
@[simp] theorem State.setPin_tpend (s : State) (p : Pin) (m : PinMode) : (s.setPin p m).tpend = s.tpend := rfl
@[simp] theorem State.setPin_opend (s : State) (p : Pin) (m : PinMode) : (s.setPin p m).opend = s.opend := rfl
@[simp] theorem State.setPin_sleeping (s : State) (p : Pin) (m : PinMode) : (s.setPin p m).sleeping = s.sleeping := rfl
@[simp] theorem State.setPin_fault (s : State) (p : Pin) (m : PinMode) : (s.setPin p m).fault = s.fault := rfl
@[simp] theorem State.setPin_trace (s : State) (p : Pin) (m : PinMode) : (s.setPin p m).trace = s.trace := rfl

/-! `logEvent` -/
@[simp] theorem State.logEvent_cfg (s : State) (e : TraceEvent) : (s.logEvent e).cfg = s.cfg := rfl
@[simp] theorem State.logEvent_booted (s : State) (e : TraceEvent) : (s.logEvent e).booted = s.booted := rfl
@[simp] theorem State.logEvent_slot (s : State) (e : TraceEvent) : (s.logEvent e).slot = s.slot := rfl
@[simp] theorem State.logEvent_plan (s : State) (e : TraceEvent) : (s.logEvent e).plan = s.plan := rfl
@[simp] theorem State.logEvent_tick (s : State) (e : TraceEvent) : (s.logEvent e).tick = s.tick := rfl
@[simp] theorem State.logEvent_pc (s : State) (e : TraceEvent) : (s.logEvent e).pc = s.pc := rfl
@[simp] theorem State.logEvent_pinA (s : State) (e : TraceEvent) : (s.logEvent e).pinA = s.pinA := rfl
@[simp] theorem State.logEvent_pinB (s : State) (e : TraceEvent) : (s.logEvent e).pinB = s.pinB := rfl
@[simp] theorem State.logEvent_cmp (s : State) (e : TraceEvent) : (s.logEvent e).cmp = s.cmp := rfl
@[simp] theorem State.logEvent_cnt (s : State) (e : TraceEvent) : (s.logEvent e).cnt = s.cnt := rfl
@[simp] theorem State.logEvent_raw (s : State) (e : TraceEvent) : (s.logEvent e).raw = s.raw := rfl
@[simp] theorem State.logEvent_sum (s : State) (e : TraceEvent) : (s.logEvent e).sum = s.sum := rfl
@[simp] theorem State.logEvent_k (s : State) (e : TraceEvent) : (s.logEvent e).k = s.k := rfl
@[simp] theorem State.logEvent_reading (s : State) (e : TraceEvent) : (s.logEvent e).reading = s.reading := rfl
@[simp] theorem State.logEvent_hist (s : State) (e : TraceEvent) : (s.logEvent e).hist = s.hist := rfl
@[simp] theorem State.logEvent_wp (s : State) (e : TraceEvent) : (s.logEvent e).wp = s.wp := rfl
@[simp] theorem State.logEvent_mn (s : State) (e : TraceEvent) : (s.logEvent e).mn = s.mn := rfl
@[simp] theorem State.logEvent_mx (s : State) (e : TraceEvent) : (s.logEvent e).mx = s.mx := rfl
@[simp] theorem State.logEvent_inpeak (s : State) (e : TraceEvent) : (s.logEvent e).inpeak = s.inpeak := rfl
@[simp] theorem State.logEvent_event (s : State) (e : TraceEvent) : (s.logEvent e).event = s.event := rfl
@[simp] theorem State.logEvent_dflag (s : State) (e : TraceEvent) : (s.logEvent e).dflag = s.dflag := rfl
@[simp] theorem State.logEvent_ie (s : State) (e : TraceEvent) : (s.logEvent e).ie = s.ie := rfl
@[simp] theorem State.logEvent_trun (s : State) (e : TraceEvent) : (s.logEvent e).trun = s.trun := rfl
@[simp] theorem State.logEvent_tfired (s : State) (e : TraceEvent) : (s.logEvent e).tfired = s.tfired := rfl
@[simp] theorem State.logEvent_tpend (s : State) (e : TraceEvent) : (s.logEvent e).tpend = s.tpend := rfl
@[simp] theorem State.logEvent_opend (s : State) (e : TraceEvent) : (s.logEvent e).opend = s.opend := rfl
@[simp] theorem State.logEvent_sleeping (s : State) (e : TraceEvent) : (s.logEvent e).sleeping = s.sleeping := rfl
@[simp] theorem State.logEvent_fault (s : State) (e : TraceEvent) : (s.logEvent e).fault = s.fault := rfl
@[simp] theorem State.logEvent_trace (s : State) (e : TraceEvent) : (s.logEvent e).trace = s.trace ++ [e] := rfl

/-! `setCmp` -/
@[simp] theorem State.setCmp_cfg (s : State) (b : Bool) : (s.setCmp b).cfg = s.cfg := rfl
@[simp] theorem State.setCmp_booted (s : State) (b : Bool) : (s.setCmp b).booted = s.booted := rfl
@[simp] theorem State.setCmp_slot (s : State) (b : Bool) : (s.setCmp b).slot = s.slot := rfl
@[simp] theorem State.setCmp_plan (s : State) (b : Bool) : (s.setCmp b).plan = s.plan := rfl
@[simp] theorem State.setCmp_tick (s : State) (b : Bool) : (s.setCmp b).tick = s.tick := rfl
@[simp] theorem State.setCmp_pc (s : State) (b : Bool) : (s.setCmp b).pc = s.pc := rfl
@[simp] theorem State.setCmp_pinA (s : State) (b : Bool) : (s.setCmp b).pinA = s.pinA := rfl
@[simp] theorem State.setCmp_pinB (s : State) (b : Bool) : (s.setCmp b).pinB = s.pinB := rfl
@[simp] theorem State.setCmp_cmp (s : State) (b : Bool) : (s.setCmp b).cmp = some b := rfl
@[simp] theorem State.setCmp_cnt (s : State) (b : Bool) : (s.setCmp b).cnt = s.cnt := rfl
@[simp] theorem State.setCmp_raw (s : State) (b : Bool) : (s.setCmp b).raw = s.raw := rfl
@[simp] theorem State.setCmp_sum (s : State) (b : Bool) : (s.setCmp b).sum = s.sum := rfl
@[simp] theorem State.setCmp_k (s : State) (b : Bool) : (s.setCmp b).k = s.k := rfl
@[simp] theorem State.setCmp_reading (s : State) (b : Bool) : (s.setCmp b).reading = s.reading := rfl
@[simp] theorem State.setCmp_hist (s : State) (b : Bool) : (s.setCmp b).hist = s.hist := rfl
@[simp] theorem State.setCmp_wp (s : State) (b : Bool) : (s.setCmp b).wp = s.wp := rfl
@[simp] theorem State.setCmp_mn (s : State) (b : Bool) : (s.setCmp b).mn = s.mn := rfl
@[simp] theorem State.setCmp_mx (s : State) (b : Bool) : (s.setCmp b).mx = s.mx := rfl
@[simp] theorem State.setCmp_inpeak (s : State) (b : Bool) : (s.setCmp b).inpeak = s.inpeak := rfl
@[simp] theorem State.setCmp_event (s : State) (b : Bool) : (s.setCmp b).event = s.event := rfl
@[simp] theorem State.setCmp_dflag (s : State) (b : Bool) : (s.setCmp b).dflag = s.dflag := rfl
@[simp] theorem State.setCmp_ie (s : State) (b : Bool) : (s.setCmp b).ie = s.ie := rfl
@[simp] theorem State.setCmp_trun (s : State) (b : Bool) : (s.setCmp b).trun = s.trun := rfl
@[simp] theorem State.setCmp_tfired (s : State) (b : Bool) : (s.setCmp b).tfired = s.tfired := rfl
@[simp] theorem State.setCmp_tpend (s : State) (b : Bool) : (s.setCmp b).tpend = s.tpend := rfl
@[simp] theorem State.setCmp_opend (s : State) (b : Bool) : (s.setCmp b).opend = s.opend := rfl
@[simp] theorem State.setCmp_sleeping (s : State) (b : Bool) : (s.setCmp b).sleeping = s.sleeping := rfl
@[simp] theorem State.setCmp_fault (s : State) (b : Bool) : (s.setCmp b).fault = s.fault := rfl
@[simp] theorem State.setCmp_trace (s : State) (b : Bool) : (s.setCmp b).trace = s.trace := rfl

/-! `setCnt` -/
@[simp] theorem State.setCnt_cfg (s : State) (v : Count) : (s.setCnt v).cfg = s.cfg := rfl
@[simp] theorem State.setCnt_booted (s : State) (v : Count) : (s.setCnt v).booted = s.booted := rfl
@[simp] theorem State.setCnt_slot (s : State) (v : Count) : (s.setCnt v).slot = s.slot := rfl
@[simp] theorem State.setCnt_plan (s : State) (v : Count) : (s.setCnt v).plan = s.plan := rfl
@[simp] theorem State.setCnt_tick (s : State) (v : Count) : (s.setCnt v).tick = s.tick := rfl
@[simp] theorem State.setCnt_pc (s : State) (v : Count) : (s.setCnt v).pc = s.pc := rfl
@[simp] theorem State.setCnt_pinA (s : State) (v : Count) : (s.setCnt v).pinA = s.pinA := rfl
@[simp] theorem State.setCnt_pinB (s : State) (v : Count) : (s.setCnt v).pinB = s.pinB := rfl
@[simp] theorem State.setCnt_cmp (s : State) (v : Count) : (s.setCnt v).cmp = s.cmp := rfl
@[simp] theorem State.setCnt_cnt (s : State) (v : Count) : (s.setCnt v).cnt = some v := rfl
@[simp] theorem State.setCnt_raw (s : State) (v : Count) : (s.setCnt v).raw = s.raw := rfl
@[simp] theorem State.setCnt_sum (s : State) (v : Count) : (s.setCnt v).sum = s.sum := rfl
@[simp] theorem State.setCnt_k (s : State) (v : Count) : (s.setCnt v).k = s.k := rfl
@[simp] theorem State.setCnt_reading (s : State) (v : Count) : (s.setCnt v).reading = s.reading := rfl
@[simp] theorem State.setCnt_hist (s : State) (v : Count) : (s.setCnt v).hist = s.hist := rfl
@[simp] theorem State.setCnt_wp (s : State) (v : Count) : (s.setCnt v).wp = s.wp := rfl
@[simp] theorem State.setCnt_mn (s : State) (v : Count) : (s.setCnt v).mn = s.mn := rfl
@[simp] theorem State.setCnt_mx (s : State) (v : Count) : (s.setCnt v).mx = s.mx := rfl
@[simp] theorem State.setCnt_inpeak (s : State) (v : Count) : (s.setCnt v).inpeak = s.inpeak := rfl
@[simp] theorem State.setCnt_event (s : State) (v : Count) : (s.setCnt v).event = s.event := rfl
@[simp] theorem State.setCnt_dflag (s : State) (v : Count) : (s.setCnt v).dflag = s.dflag := rfl
@[simp] theorem State.setCnt_ie (s : State) (v : Count) : (s.setCnt v).ie = s.ie := rfl
@[simp] theorem State.setCnt_trun (s : State) (v : Count) : (s.setCnt v).trun = s.trun := rfl
@[simp] theorem State.setCnt_tfired (s : State) (v : Count) : (s.setCnt v).tfired = s.tfired := rfl
@[simp] theorem State.setCnt_tpend (s : State) (v : Count) : (s.setCnt v).tpend = s.tpend := rfl
@[simp] theorem State.setCnt_opend (s : State) (v : Count) : (s.setCnt v).opend = s.opend := rfl
@[simp] theorem State.setCnt_sleeping (s : State) (v : Count) : (s.setCnt v).sleeping = s.sleeping := rfl
@[simp] theorem State.setCnt_fault (s : State) (v : Count) : (s.setCnt v).fault = s.fault := rfl
@[simp] theorem State.setCnt_trace (s : State) (v : Count) : (s.setCnt v).trace = s.trace := rfl

/-! `setRaw` -/
@[simp] theorem State.setRaw_cfg (s : State) (v : Count) : (s.setRaw v).cfg = s.cfg := rfl
@[simp] theorem State.setRaw_booted (s : State) (v : Count) : (s.setRaw v).booted = s.booted := rfl
@[simp] theorem State.setRaw_slot (s : State) (v : Count) : (s.setRaw v).slot = s.slot := rfl
@[simp] theorem State.setRaw_plan (s : State) (v : Count) : (s.setRaw v).plan = s.plan := rfl
@[simp] theorem State.setRaw_tick (s : State) (v : Count) : (s.setRaw v).tick = s.tick := rfl
@[simp] theorem State.setRaw_pc (s : State) (v : Count) : (s.setRaw v).pc = s.pc := rfl
@[simp] theorem State.setRaw_pinA (s : State) (v : Count) : (s.setRaw v).pinA = s.pinA := rfl
@[simp] theorem State.setRaw_pinB (s : State) (v : Count) : (s.setRaw v).pinB = s.pinB := rfl
@[simp] theorem State.setRaw_cmp (s : State) (v : Count) : (s.setRaw v).cmp = s.cmp := rfl
@[simp] theorem State.setRaw_cnt (s : State) (v : Count) : (s.setRaw v).cnt = s.cnt := rfl
@[simp] theorem State.setRaw_raw (s : State) (v : Count) : (s.setRaw v).raw = some v := rfl
@[simp] theorem State.setRaw_sum (s : State) (v : Count) : (s.setRaw v).sum = s.sum := rfl
@[simp] theorem State.setRaw_k (s : State) (v : Count) : (s.setRaw v).k = s.k := rfl
@[simp] theorem State.setRaw_reading (s : State) (v : Count) : (s.setRaw v).reading = s.reading := rfl
@[simp] theorem State.setRaw_hist (s : State) (v : Count) : (s.setRaw v).hist = s.hist := rfl
@[simp] theorem State.setRaw_wp (s : State) (v : Count) : (s.setRaw v).wp = s.wp := rfl
@[simp] theorem State.setRaw_mn (s : State) (v : Count) : (s.setRaw v).mn = s.mn := rfl
@[simp] theorem State.setRaw_mx (s : State) (v : Count) : (s.setRaw v).mx = s.mx := rfl
@[simp] theorem State.setRaw_inpeak (s : State) (v : Count) : (s.setRaw v).inpeak = s.inpeak := rfl
@[simp] theorem State.setRaw_event (s : State) (v : Count) : (s.setRaw v).event = s.event := rfl
@[simp] theorem State.setRaw_dflag (s : State) (v : Count) : (s.setRaw v).dflag = s.dflag := rfl
@[simp] theorem State.setRaw_ie (s : State) (v : Count) : (s.setRaw v).ie = s.ie := rfl
@[simp] theorem State.setRaw_trun (s : State) (v : Count) : (s.setRaw v).trun = s.trun := rfl
@[simp] theorem State.setRaw_tfired (s : State) (v : Count) : (s.setRaw v).tfired = s.tfired := rfl
@[simp] theorem State.setRaw_tpend (s : State) (v : Count) : (s.setRaw v).tpend = s.tpend := rfl
@[simp] theorem State.setRaw_opend (s : State) (v : Count) : (s.setRaw v).opend = s.opend := rfl
@[simp] theorem State.setRaw_sleeping (s : State) (v : Count) : (s.setRaw v).sleeping = s.sleeping := rfl
@[simp] theorem State.setRaw_fault (s : State) (v : Count) : (s.setRaw v).fault = s.fault := rfl
@[simp] theorem State.setRaw_trace (s : State) (v : Count) : (s.setRaw v).trace = s.trace := rfl

/-! `setAccumulator` -/
@[simp] theorem State.setAccumulator_cfg (s : State) (t : Total) (i : SubIndex) : (s.setAccumulator t i).cfg = s.cfg := rfl
@[simp] theorem State.setAccumulator_booted (s : State) (t : Total) (i : SubIndex) : (s.setAccumulator t i).booted = s.booted := rfl
@[simp] theorem State.setAccumulator_slot (s : State) (t : Total) (i : SubIndex) : (s.setAccumulator t i).slot = s.slot := rfl
@[simp] theorem State.setAccumulator_plan (s : State) (t : Total) (i : SubIndex) : (s.setAccumulator t i).plan = s.plan := rfl
@[simp] theorem State.setAccumulator_tick (s : State) (t : Total) (i : SubIndex) : (s.setAccumulator t i).tick = s.tick := rfl
@[simp] theorem State.setAccumulator_pc (s : State) (t : Total) (i : SubIndex) : (s.setAccumulator t i).pc = s.pc := rfl
@[simp] theorem State.setAccumulator_pinA (s : State) (t : Total) (i : SubIndex) : (s.setAccumulator t i).pinA = s.pinA := rfl
@[simp] theorem State.setAccumulator_pinB (s : State) (t : Total) (i : SubIndex) : (s.setAccumulator t i).pinB = s.pinB := rfl
@[simp] theorem State.setAccumulator_cmp (s : State) (t : Total) (i : SubIndex) : (s.setAccumulator t i).cmp = s.cmp := rfl
@[simp] theorem State.setAccumulator_cnt (s : State) (t : Total) (i : SubIndex) : (s.setAccumulator t i).cnt = s.cnt := rfl
@[simp] theorem State.setAccumulator_raw (s : State) (t : Total) (i : SubIndex) : (s.setAccumulator t i).raw = s.raw := rfl
@[simp] theorem State.setAccumulator_sum (s : State) (t : Total) (i : SubIndex) : (s.setAccumulator t i).sum = some t := rfl
@[simp] theorem State.setAccumulator_k (s : State) (t : Total) (i : SubIndex) : (s.setAccumulator t i).k = some i := rfl
@[simp] theorem State.setAccumulator_reading (s : State) (t : Total) (i : SubIndex) : (s.setAccumulator t i).reading = s.reading := rfl
@[simp] theorem State.setAccumulator_hist (s : State) (t : Total) (i : SubIndex) : (s.setAccumulator t i).hist = s.hist := rfl
@[simp] theorem State.setAccumulator_wp (s : State) (t : Total) (i : SubIndex) : (s.setAccumulator t i).wp = s.wp := rfl
@[simp] theorem State.setAccumulator_mn (s : State) (t : Total) (i : SubIndex) : (s.setAccumulator t i).mn = s.mn := rfl
@[simp] theorem State.setAccumulator_mx (s : State) (t : Total) (i : SubIndex) : (s.setAccumulator t i).mx = s.mx := rfl
@[simp] theorem State.setAccumulator_inpeak (s : State) (t : Total) (i : SubIndex) : (s.setAccumulator t i).inpeak = s.inpeak := rfl
@[simp] theorem State.setAccumulator_event (s : State) (t : Total) (i : SubIndex) : (s.setAccumulator t i).event = s.event := rfl
@[simp] theorem State.setAccumulator_dflag (s : State) (t : Total) (i : SubIndex) : (s.setAccumulator t i).dflag = s.dflag := rfl
@[simp] theorem State.setAccumulator_ie (s : State) (t : Total) (i : SubIndex) : (s.setAccumulator t i).ie = s.ie := rfl
@[simp] theorem State.setAccumulator_trun (s : State) (t : Total) (i : SubIndex) : (s.setAccumulator t i).trun = s.trun := rfl
@[simp] theorem State.setAccumulator_tfired (s : State) (t : Total) (i : SubIndex) : (s.setAccumulator t i).tfired = s.tfired := rfl
@[simp] theorem State.setAccumulator_tpend (s : State) (t : Total) (i : SubIndex) : (s.setAccumulator t i).tpend = s.tpend := rfl
@[simp] theorem State.setAccumulator_opend (s : State) (t : Total) (i : SubIndex) : (s.setAccumulator t i).opend = s.opend := rfl
@[simp] theorem State.setAccumulator_sleeping (s : State) (t : Total) (i : SubIndex) : (s.setAccumulator t i).sleeping = s.sleeping := rfl
@[simp] theorem State.setAccumulator_fault (s : State) (t : Total) (i : SubIndex) : (s.setAccumulator t i).fault = s.fault := rfl
@[simp] theorem State.setAccumulator_trace (s : State) (t : Total) (i : SubIndex) : (s.setAccumulator t i).trace = s.trace := rfl

/-! `setReading` -/
@[simp] theorem State.setReading_cfg (s : State) (v : Count) : (s.setReading v).cfg = s.cfg := rfl
@[simp] theorem State.setReading_booted (s : State) (v : Count) : (s.setReading v).booted = s.booted := rfl
@[simp] theorem State.setReading_slot (s : State) (v : Count) : (s.setReading v).slot = s.slot := rfl
@[simp] theorem State.setReading_plan (s : State) (v : Count) : (s.setReading v).plan = s.plan := rfl
@[simp] theorem State.setReading_tick (s : State) (v : Count) : (s.setReading v).tick = s.tick := rfl
@[simp] theorem State.setReading_pc (s : State) (v : Count) : (s.setReading v).pc = s.pc := rfl
@[simp] theorem State.setReading_pinA (s : State) (v : Count) : (s.setReading v).pinA = s.pinA := rfl
@[simp] theorem State.setReading_pinB (s : State) (v : Count) : (s.setReading v).pinB = s.pinB := rfl
@[simp] theorem State.setReading_cmp (s : State) (v : Count) : (s.setReading v).cmp = s.cmp := rfl
@[simp] theorem State.setReading_cnt (s : State) (v : Count) : (s.setReading v).cnt = s.cnt := rfl
@[simp] theorem State.setReading_raw (s : State) (v : Count) : (s.setReading v).raw = s.raw := rfl
@[simp] theorem State.setReading_sum (s : State) (v : Count) : (s.setReading v).sum = s.sum := rfl
@[simp] theorem State.setReading_k (s : State) (v : Count) : (s.setReading v).k = s.k := rfl
@[simp] theorem State.setReading_reading (s : State) (v : Count) : (s.setReading v).reading = some v := rfl
@[simp] theorem State.setReading_hist (s : State) (v : Count) : (s.setReading v).hist = s.hist := rfl
@[simp] theorem State.setReading_wp (s : State) (v : Count) : (s.setReading v).wp = s.wp := rfl
@[simp] theorem State.setReading_mn (s : State) (v : Count) : (s.setReading v).mn = s.mn := rfl
@[simp] theorem State.setReading_mx (s : State) (v : Count) : (s.setReading v).mx = s.mx := rfl
@[simp] theorem State.setReading_inpeak (s : State) (v : Count) : (s.setReading v).inpeak = s.inpeak := rfl
@[simp] theorem State.setReading_event (s : State) (v : Count) : (s.setReading v).event = s.event := rfl
@[simp] theorem State.setReading_dflag (s : State) (v : Count) : (s.setReading v).dflag = s.dflag := rfl
@[simp] theorem State.setReading_ie (s : State) (v : Count) : (s.setReading v).ie = s.ie := rfl
@[simp] theorem State.setReading_trun (s : State) (v : Count) : (s.setReading v).trun = s.trun := rfl
@[simp] theorem State.setReading_tfired (s : State) (v : Count) : (s.setReading v).tfired = s.tfired := rfl
@[simp] theorem State.setReading_tpend (s : State) (v : Count) : (s.setReading v).tpend = s.tpend := rfl
@[simp] theorem State.setReading_opend (s : State) (v : Count) : (s.setReading v).opend = s.opend := rfl
@[simp] theorem State.setReading_sleeping (s : State) (v : Count) : (s.setReading v).sleeping = s.sleeping := rfl
@[simp] theorem State.setReading_fault (s : State) (v : Count) : (s.setReading v).fault = s.fault := rfl
@[simp] theorem State.setReading_trace (s : State) (v : Count) : (s.setReading v).trace = s.trace := rfl

/-! `pushHistory` -/
@[simp] theorem State.pushHistory_cfg (s : State) (v : Count) : (s.pushHistory v).cfg = s.cfg := rfl
@[simp] theorem State.pushHistory_booted (s : State) (v : Count) : (s.pushHistory v).booted = s.booted := rfl
@[simp] theorem State.pushHistory_slot (s : State) (v : Count) : (s.pushHistory v).slot = s.slot := rfl
@[simp] theorem State.pushHistory_plan (s : State) (v : Count) : (s.pushHistory v).plan = s.plan := rfl
@[simp] theorem State.pushHistory_tick (s : State) (v : Count) : (s.pushHistory v).tick = s.tick := rfl
@[simp] theorem State.pushHistory_pc (s : State) (v : Count) : (s.pushHistory v).pc = s.pc := rfl
@[simp] theorem State.pushHistory_pinA (s : State) (v : Count) : (s.pushHistory v).pinA = s.pinA := rfl
@[simp] theorem State.pushHistory_pinB (s : State) (v : Count) : (s.pushHistory v).pinB = s.pinB := rfl
@[simp] theorem State.pushHistory_cmp (s : State) (v : Count) : (s.pushHistory v).cmp = s.cmp := rfl
@[simp] theorem State.pushHistory_cnt (s : State) (v : Count) : (s.pushHistory v).cnt = s.cnt := rfl
@[simp] theorem State.pushHistory_raw (s : State) (v : Count) : (s.pushHistory v).raw = s.raw := rfl
@[simp] theorem State.pushHistory_sum (s : State) (v : Count) : (s.pushHistory v).sum = s.sum := rfl
@[simp] theorem State.pushHistory_k (s : State) (v : Count) : (s.pushHistory v).k = s.k := rfl
@[simp] theorem State.pushHistory_reading (s : State) (v : Count) : (s.pushHistory v).reading = s.reading := rfl
@[simp] theorem State.pushHistory_hist (s : State) (v : Count) : (s.pushHistory v).hist = s.hist.write s.wp v := rfl
@[simp] theorem State.pushHistory_wp (s : State) (v : Count) : (s.pushHistory v).wp = (s.wp + 1) % s.cfg.window := rfl
@[simp] theorem State.pushHistory_mn (s : State) (v : Count) : (s.pushHistory v).mn = s.mn := rfl
@[simp] theorem State.pushHistory_mx (s : State) (v : Count) : (s.pushHistory v).mx = s.mx := rfl
@[simp] theorem State.pushHistory_inpeak (s : State) (v : Count) : (s.pushHistory v).inpeak = s.inpeak := rfl
@[simp] theorem State.pushHistory_event (s : State) (v : Count) : (s.pushHistory v).event = s.event := rfl
@[simp] theorem State.pushHistory_dflag (s : State) (v : Count) : (s.pushHistory v).dflag = s.dflag := rfl
@[simp] theorem State.pushHistory_ie (s : State) (v : Count) : (s.pushHistory v).ie = s.ie := rfl
@[simp] theorem State.pushHistory_trun (s : State) (v : Count) : (s.pushHistory v).trun = s.trun := rfl
@[simp] theorem State.pushHistory_tfired (s : State) (v : Count) : (s.pushHistory v).tfired = s.tfired := rfl
@[simp] theorem State.pushHistory_tpend (s : State) (v : Count) : (s.pushHistory v).tpend = s.tpend := rfl
@[simp] theorem State.pushHistory_opend (s : State) (v : Count) : (s.pushHistory v).opend = s.opend := rfl
@[simp] theorem State.pushHistory_sleeping (s : State) (v : Count) : (s.pushHistory v).sleeping = s.sleeping := rfl
@[simp] theorem State.pushHistory_fault (s : State) (v : Count) : (s.pushHistory v).fault = s.fault := rfl
@[simp] theorem State.pushHistory_trace (s : State) (v : Count) : (s.pushHistory v).trace = s.trace := rfl

/-! `setMinMax` -/
@[simp] theorem State.setMinMax_cfg (s : State) (lo hi : Count) : (s.setMinMax lo hi).cfg = s.cfg := rfl
@[simp] theorem State.setMinMax_booted (s : State) (lo hi : Count) : (s.setMinMax lo hi).booted = s.booted := rfl
@[simp] theorem State.setMinMax_slot (s : State) (lo hi : Count) : (s.setMinMax lo hi).slot = s.slot := rfl
@[simp] theorem State.setMinMax_plan (s : State) (lo hi : Count) : (s.setMinMax lo hi).plan = s.plan := rfl
@[simp] theorem State.setMinMax_tick (s : State) (lo hi : Count) : (s.setMinMax lo hi).tick = s.tick := rfl
@[simp] theorem State.setMinMax_pc (s : State) (lo hi : Count) : (s.setMinMax lo hi).pc = s.pc := rfl
@[simp] theorem State.setMinMax_pinA (s : State) (lo hi : Count) : (s.setMinMax lo hi).pinA = s.pinA := rfl
@[simp] theorem State.setMinMax_pinB (s : State) (lo hi : Count) : (s.setMinMax lo hi).pinB = s.pinB := rfl
@[simp] theorem State.setMinMax_cmp (s : State) (lo hi : Count) : (s.setMinMax lo hi).cmp = s.cmp := rfl
@[simp] theorem State.setMinMax_cnt (s : State) (lo hi : Count) : (s.setMinMax lo hi).cnt = s.cnt := rfl
@[simp] theorem State.setMinMax_raw (s : State) (lo hi : Count) : (s.setMinMax lo hi).raw = s.raw := rfl
@[simp] theorem State.setMinMax_sum (s : State) (lo hi : Count) : (s.setMinMax lo hi).sum = s.sum := rfl
@[simp] theorem State.setMinMax_k (s : State) (lo hi : Count) : (s.setMinMax lo hi).k = s.k := rfl
@[simp] theorem State.setMinMax_reading (s : State) (lo hi : Count) : (s.setMinMax lo hi).reading = s.reading := rfl
@[simp] theorem State.setMinMax_hist (s : State) (lo hi : Count) : (s.setMinMax lo hi).hist = s.hist := rfl
@[simp] theorem State.setMinMax_wp (s : State) (lo hi : Count) : (s.setMinMax lo hi).wp = s.wp := rfl
@[simp] theorem State.setMinMax_mn (s : State) (lo hi : Count) : (s.setMinMax lo hi).mn = some lo := rfl
@[simp] theorem State.setMinMax_mx (s : State) (lo hi : Count) : (s.setMinMax lo hi).mx = some hi := rfl
@[simp] theorem State.setMinMax_inpeak (s : State) (lo hi : Count) : (s.setMinMax lo hi).inpeak = s.inpeak := rfl
@[simp] theorem State.setMinMax_event (s : State) (lo hi : Count) : (s.setMinMax lo hi).event = s.event := rfl
@[simp] theorem State.setMinMax_dflag (s : State) (lo hi : Count) : (s.setMinMax lo hi).dflag = s.dflag := rfl
@[simp] theorem State.setMinMax_ie (s : State) (lo hi : Count) : (s.setMinMax lo hi).ie = s.ie := rfl
@[simp] theorem State.setMinMax_trun (s : State) (lo hi : Count) : (s.setMinMax lo hi).trun = s.trun := rfl
@[simp] theorem State.setMinMax_tfired (s : State) (lo hi : Count) : (s.setMinMax lo hi).tfired = s.tfired := rfl
@[simp] theorem State.setMinMax_tpend (s : State) (lo hi : Count) : (s.setMinMax lo hi).tpend = s.tpend := rfl
@[simp] theorem State.setMinMax_opend (s : State) (lo hi : Count) : (s.setMinMax lo hi).opend = s.opend := rfl
@[simp] theorem State.setMinMax_sleeping (s : State) (lo hi : Count) : (s.setMinMax lo hi).sleeping = s.sleeping := rfl
@[simp] theorem State.setMinMax_fault (s : State) (lo hi : Count) : (s.setMinMax lo hi).fault = s.fault := rfl
@[simp] theorem State.setMinMax_trace (s : State) (lo hi : Count) : (s.setMinMax lo hi).trace = s.trace := rfl

/-! `setDetector` -/
@[simp] theorem State.setDetector_cfg (s : State) (e c : Bool) : (s.setDetector e c).cfg = s.cfg := rfl
@[simp] theorem State.setDetector_booted (s : State) (e c : Bool) : (s.setDetector e c).booted = s.booted := rfl
@[simp] theorem State.setDetector_slot (s : State) (e c : Bool) : (s.setDetector e c).slot = s.slot := rfl
@[simp] theorem State.setDetector_plan (s : State) (e c : Bool) : (s.setDetector e c).plan = s.plan := rfl
@[simp] theorem State.setDetector_tick (s : State) (e c : Bool) : (s.setDetector e c).tick = s.tick := rfl
@[simp] theorem State.setDetector_pc (s : State) (e c : Bool) : (s.setDetector e c).pc = s.pc := rfl
@[simp] theorem State.setDetector_pinA (s : State) (e c : Bool) : (s.setDetector e c).pinA = s.pinA := rfl
@[simp] theorem State.setDetector_pinB (s : State) (e c : Bool) : (s.setDetector e c).pinB = s.pinB := rfl
@[simp] theorem State.setDetector_cmp (s : State) (e c : Bool) : (s.setDetector e c).cmp = s.cmp := rfl
@[simp] theorem State.setDetector_cnt (s : State) (e c : Bool) : (s.setDetector e c).cnt = s.cnt := rfl
@[simp] theorem State.setDetector_raw (s : State) (e c : Bool) : (s.setDetector e c).raw = s.raw := rfl
@[simp] theorem State.setDetector_sum (s : State) (e c : Bool) : (s.setDetector e c).sum = s.sum := rfl
@[simp] theorem State.setDetector_k (s : State) (e c : Bool) : (s.setDetector e c).k = s.k := rfl
@[simp] theorem State.setDetector_reading (s : State) (e c : Bool) : (s.setDetector e c).reading = s.reading := rfl
@[simp] theorem State.setDetector_hist (s : State) (e c : Bool) : (s.setDetector e c).hist = s.hist := rfl
@[simp] theorem State.setDetector_wp (s : State) (e c : Bool) : (s.setDetector e c).wp = s.wp := rfl
@[simp] theorem State.setDetector_mn (s : State) (e c : Bool) : (s.setDetector e c).mn = s.mn := rfl
@[simp] theorem State.setDetector_mx (s : State) (e c : Bool) : (s.setDetector e c).mx = s.mx := rfl
@[simp] theorem State.setDetector_inpeak (s : State) (e c : Bool) : (s.setDetector e c).inpeak = c := rfl
@[simp] theorem State.setDetector_event (s : State) (e c : Bool) : (s.setDetector e c).event = some e := rfl
@[simp] theorem State.setDetector_dflag (s : State) (e c : Bool) : (s.setDetector e c).dflag = s.dflag := rfl
@[simp] theorem State.setDetector_ie (s : State) (e c : Bool) : (s.setDetector e c).ie = s.ie := rfl
@[simp] theorem State.setDetector_trun (s : State) (e c : Bool) : (s.setDetector e c).trun = s.trun := rfl
@[simp] theorem State.setDetector_tfired (s : State) (e c : Bool) : (s.setDetector e c).tfired = s.tfired := rfl
@[simp] theorem State.setDetector_tpend (s : State) (e c : Bool) : (s.setDetector e c).tpend = s.tpend := rfl
@[simp] theorem State.setDetector_opend (s : State) (e c : Bool) : (s.setDetector e c).opend = s.opend := rfl
@[simp] theorem State.setDetector_sleeping (s : State) (e c : Bool) : (s.setDetector e c).sleeping = s.sleeping := rfl
@[simp] theorem State.setDetector_fault (s : State) (e c : Bool) : (s.setDetector e c).fault = s.fault := rfl
@[simp] theorem State.setDetector_trace (s : State) (e c : Bool) : (s.setDetector e c).trace = s.trace := rfl

/-! `setIe` -/
@[simp] theorem State.setIe_cfg (s : State) (b : Bool) : (s.setIe b).cfg = s.cfg := rfl
@[simp] theorem State.setIe_booted (s : State) (b : Bool) : (s.setIe b).booted = s.booted := rfl
@[simp] theorem State.setIe_slot (s : State) (b : Bool) : (s.setIe b).slot = s.slot := rfl
@[simp] theorem State.setIe_plan (s : State) (b : Bool) : (s.setIe b).plan = s.plan := rfl
@[simp] theorem State.setIe_tick (s : State) (b : Bool) : (s.setIe b).tick = s.tick := rfl
@[simp] theorem State.setIe_pc (s : State) (b : Bool) : (s.setIe b).pc = s.pc := rfl
@[simp] theorem State.setIe_pinA (s : State) (b : Bool) : (s.setIe b).pinA = s.pinA := rfl
@[simp] theorem State.setIe_pinB (s : State) (b : Bool) : (s.setIe b).pinB = s.pinB := rfl
@[simp] theorem State.setIe_cmp (s : State) (b : Bool) : (s.setIe b).cmp = s.cmp := rfl
@[simp] theorem State.setIe_cnt (s : State) (b : Bool) : (s.setIe b).cnt = s.cnt := rfl
@[simp] theorem State.setIe_raw (s : State) (b : Bool) : (s.setIe b).raw = s.raw := rfl
@[simp] theorem State.setIe_sum (s : State) (b : Bool) : (s.setIe b).sum = s.sum := rfl
@[simp] theorem State.setIe_k (s : State) (b : Bool) : (s.setIe b).k = s.k := rfl
@[simp] theorem State.setIe_reading (s : State) (b : Bool) : (s.setIe b).reading = s.reading := rfl
@[simp] theorem State.setIe_hist (s : State) (b : Bool) : (s.setIe b).hist = s.hist := rfl
@[simp] theorem State.setIe_wp (s : State) (b : Bool) : (s.setIe b).wp = s.wp := rfl
@[simp] theorem State.setIe_mn (s : State) (b : Bool) : (s.setIe b).mn = s.mn := rfl
@[simp] theorem State.setIe_mx (s : State) (b : Bool) : (s.setIe b).mx = s.mx := rfl
@[simp] theorem State.setIe_inpeak (s : State) (b : Bool) : (s.setIe b).inpeak = s.inpeak := rfl
@[simp] theorem State.setIe_event (s : State) (b : Bool) : (s.setIe b).event = s.event := rfl
@[simp] theorem State.setIe_dflag (s : State) (b : Bool) : (s.setIe b).dflag = s.dflag := rfl
@[simp] theorem State.setIe_ie (s : State) (b : Bool) : (s.setIe b).ie = b := rfl
@[simp] theorem State.setIe_trun (s : State) (b : Bool) : (s.setIe b).trun = s.trun := rfl
@[simp] theorem State.setIe_tfired (s : State) (b : Bool) : (s.setIe b).tfired = s.tfired := rfl
@[simp] theorem State.setIe_tpend (s : State) (b : Bool) : (s.setIe b).tpend = s.tpend := rfl
@[simp] theorem State.setIe_opend (s : State) (b : Bool) : (s.setIe b).opend = s.opend := rfl
@[simp] theorem State.setIe_sleeping (s : State) (b : Bool) : (s.setIe b).sleeping = s.sleeping := rfl
@[simp] theorem State.setIe_fault (s : State) (b : Bool) : (s.setIe b).fault = s.fault := rfl
@[simp] theorem State.setIe_trace (s : State) (b : Bool) : (s.setIe b).trace = s.trace := rfl

/-! `setSleeping` -/
@[simp] theorem State.setSleeping_cfg (s : State) (b : Bool) : (s.setSleeping b).cfg = s.cfg := rfl
@[simp] theorem State.setSleeping_booted (s : State) (b : Bool) : (s.setSleeping b).booted = s.booted := rfl
@[simp] theorem State.setSleeping_slot (s : State) (b : Bool) : (s.setSleeping b).slot = s.slot := rfl
@[simp] theorem State.setSleeping_plan (s : State) (b : Bool) : (s.setSleeping b).plan = s.plan := rfl
@[simp] theorem State.setSleeping_tick (s : State) (b : Bool) : (s.setSleeping b).tick = s.tick := rfl
@[simp] theorem State.setSleeping_pc (s : State) (b : Bool) : (s.setSleeping b).pc = s.pc := rfl
@[simp] theorem State.setSleeping_pinA (s : State) (b : Bool) : (s.setSleeping b).pinA = s.pinA := rfl
@[simp] theorem State.setSleeping_pinB (s : State) (b : Bool) : (s.setSleeping b).pinB = s.pinB := rfl
@[simp] theorem State.setSleeping_cmp (s : State) (b : Bool) : (s.setSleeping b).cmp = s.cmp := rfl
@[simp] theorem State.setSleeping_cnt (s : State) (b : Bool) : (s.setSleeping b).cnt = s.cnt := rfl
@[simp] theorem State.setSleeping_raw (s : State) (b : Bool) : (s.setSleeping b).raw = s.raw := rfl
@[simp] theorem State.setSleeping_sum (s : State) (b : Bool) : (s.setSleeping b).sum = s.sum := rfl
@[simp] theorem State.setSleeping_k (s : State) (b : Bool) : (s.setSleeping b).k = s.k := rfl
@[simp] theorem State.setSleeping_reading (s : State) (b : Bool) : (s.setSleeping b).reading = s.reading := rfl
@[simp] theorem State.setSleeping_hist (s : State) (b : Bool) : (s.setSleeping b).hist = s.hist := rfl
@[simp] theorem State.setSleeping_wp (s : State) (b : Bool) : (s.setSleeping b).wp = s.wp := rfl
@[simp] theorem State.setSleeping_mn (s : State) (b : Bool) : (s.setSleeping b).mn = s.mn := rfl
@[simp] theorem State.setSleeping_mx (s : State) (b : Bool) : (s.setSleeping b).mx = s.mx := rfl
@[simp] theorem State.setSleeping_inpeak (s : State) (b : Bool) : (s.setSleeping b).inpeak = s.inpeak := rfl
@[simp] theorem State.setSleeping_event (s : State) (b : Bool) : (s.setSleeping b).event = s.event := rfl
@[simp] theorem State.setSleeping_dflag (s : State) (b : Bool) : (s.setSleeping b).dflag = s.dflag := rfl
@[simp] theorem State.setSleeping_ie (s : State) (b : Bool) : (s.setSleeping b).ie = s.ie := rfl
@[simp] theorem State.setSleeping_trun (s : State) (b : Bool) : (s.setSleeping b).trun = s.trun := rfl
@[simp] theorem State.setSleeping_tfired (s : State) (b : Bool) : (s.setSleeping b).tfired = s.tfired := rfl
@[simp] theorem State.setSleeping_tpend (s : State) (b : Bool) : (s.setSleeping b).tpend = s.tpend := rfl
@[simp] theorem State.setSleeping_opend (s : State) (b : Bool) : (s.setSleeping b).opend = s.opend := rfl
@[simp] theorem State.setSleeping_sleeping (s : State) (b : Bool) : (s.setSleeping b).sleeping = b := rfl
@[simp] theorem State.setSleeping_fault (s : State) (b : Bool) : (s.setSleeping b).fault = s.fault := rfl
@[simp] theorem State.setSleeping_trace (s : State) (b : Bool) : (s.setSleeping b).trace = s.trace := rfl

/-! `armWindow` -/
@[simp] theorem State.armWindow_cfg (s : State) : (s.armWindow).cfg = s.cfg := rfl
@[simp] theorem State.armWindow_booted (s : State) : (s.armWindow).booted = s.booted := rfl
@[simp] theorem State.armWindow_slot (s : State) : (s.armWindow).slot = s.slot := rfl
@[simp] theorem State.armWindow_plan (s : State) : (s.armWindow).plan = s.plan := rfl
@[simp] theorem State.armWindow_tick (s : State) : (s.armWindow).tick = s.tick := rfl
@[simp] theorem State.armWindow_pc (s : State) : (s.armWindow).pc = s.pc := rfl
@[simp] theorem State.armWindow_pinA (s : State) : (s.armWindow).pinA = s.pinA := rfl
@[simp] theorem State.armWindow_pinB (s : State) : (s.armWindow).pinB = s.pinB := rfl
@[simp] theorem State.armWindow_cmp (s : State) : (s.armWindow).cmp = s.cmp := rfl
@[simp] theorem State.armWindow_cnt (s : State) : (s.armWindow).cnt = s.cnt := rfl
@[simp] theorem State.armWindow_raw (s : State) : (s.armWindow).raw = s.raw := rfl
@[simp] theorem State.armWindow_sum (s : State) : (s.armWindow).sum = s.sum := rfl
@[simp] theorem State.armWindow_k (s : State) : (s.armWindow).k = s.k := rfl
@[simp] theorem State.armWindow_reading (s : State) : (s.armWindow).reading = s.reading := rfl
@[simp] theorem State.armWindow_hist (s : State) : (s.armWindow).hist = s.hist := rfl
@[simp] theorem State.armWindow_wp (s : State) : (s.armWindow).wp = s.wp := rfl
@[simp] theorem State.armWindow_mn (s : State) : (s.armWindow).mn = s.mn := rfl
@[simp] theorem State.armWindow_mx (s : State) : (s.armWindow).mx = s.mx := rfl
@[simp] theorem State.armWindow_inpeak (s : State) : (s.armWindow).inpeak = s.inpeak := rfl
@[simp] theorem State.armWindow_event (s : State) : (s.armWindow).event = s.event := rfl
@[simp] theorem State.armWindow_dflag (s : State) : (s.armWindow).dflag = true := rfl
@[simp] theorem State.armWindow_ie (s : State) : (s.armWindow).ie = s.ie := rfl
@[simp] theorem State.armWindow_trun (s : State) : (s.armWindow).trun = true := rfl
@[simp] theorem State.armWindow_tfired (s : State) : (s.armWindow).tfired = false := rfl
@[simp] theorem State.armWindow_tpend (s : State) : (s.armWindow).tpend = false := rfl
@[simp] theorem State.armWindow_opend (s : State) : (s.armWindow).opend = s.opend := rfl
@[simp] theorem State.armWindow_sleeping (s : State) : (s.armWindow).sleeping = s.sleeping := rfl
@[simp] theorem State.armWindow_fault (s : State) : (s.armWindow).fault = s.fault := rfl
@[simp] theorem State.armWindow_trace (s : State) : (s.armWindow).trace = s.trace := rfl

/-! `stopCountdown` -/
@[simp] theorem State.stopCountdown_cfg (s : State) : (s.stopCountdown).cfg = s.cfg := rfl
@[simp] theorem State.stopCountdown_booted (s : State) : (s.stopCountdown).booted = s.booted := rfl
@[simp] theorem State.stopCountdown_slot (s : State) : (s.stopCountdown).slot = s.slot := rfl
@[simp] theorem State.stopCountdown_plan (s : State) : (s.stopCountdown).plan = s.plan := rfl
@[simp] theorem State.stopCountdown_tick (s : State) : (s.stopCountdown).tick = s.tick := rfl
@[simp] theorem State.stopCountdown_pc (s : State) : (s.stopCountdown).pc = s.pc := rfl
@[simp] theorem State.stopCountdown_pinA (s : State) : (s.stopCountdown).pinA = s.pinA := rfl
@[simp] theorem State.stopCountdown_pinB (s : State) : (s.stopCountdown).pinB = s.pinB := rfl
@[simp] theorem State.stopCountdown_cmp (s : State) : (s.stopCountdown).cmp = s.cmp := rfl
@[simp] theorem State.stopCountdown_cnt (s : State) : (s.stopCountdown).cnt = s.cnt := rfl
@[simp] theorem State.stopCountdown_raw (s : State) : (s.stopCountdown).raw = s.raw := rfl
@[simp] theorem State.stopCountdown_sum (s : State) : (s.stopCountdown).sum = s.sum := rfl
@[simp] theorem State.stopCountdown_k (s : State) : (s.stopCountdown).k = s.k := rfl
@[simp] theorem State.stopCountdown_reading (s : State) : (s.stopCountdown).reading = s.reading := rfl
@[simp] theorem State.stopCountdown_hist (s : State) : (s.stopCountdown).hist = s.hist := rfl
@[simp] theorem State.stopCountdown_wp (s : State) : (s.stopCountdown).wp = s.wp := rfl
@[simp] theorem State.stopCountdown_mn (s : State) : (s.stopCountdown).mn = s.mn := rfl
@[simp] theorem State.stopCountdown_mx (s : State) : (s.stopCountdown).mx = s.mx := rfl
@[simp] theorem State.stopCountdown_inpeak (s : State) : (s.stopCountdown).inpeak = s.inpeak := rfl
@[simp] theorem State.stopCountdown_event (s : State) : (s.stopCountdown).event = s.event := rfl
@[simp] theorem State.stopCountdown_dflag (s : State) : (s.stopCountdown).dflag = s.dflag := rfl
@[simp] theorem State.stopCountdown_ie (s : State) : (s.stopCountdown).ie = s.ie := rfl
@[simp] theorem State.stopCountdown_trun (s : State) : (s.stopCountdown).trun = false := rfl
@[simp] theorem State.stopCountdown_tfired (s : State) : (s.stopCountdown).tfired = s.tfired := rfl
@[simp] theorem State.stopCountdown_tpend (s : State) : (s.stopCountdown).tpend = s.tpend := rfl
@[simp] theorem State.stopCountdown_opend (s : State) : (s.stopCountdown).opend = s.opend := rfl
@[simp] theorem State.stopCountdown_sleeping (s : State) : (s.stopCountdown).sleeping = s.sleeping := rfl
@[simp] theorem State.stopCountdown_fault (s : State) : (s.stopCountdown).fault = s.fault := rfl
@[simp] theorem State.stopCountdown_trace (s : State) : (s.stopCountdown).trace = s.trace := rfl

/-! `expire` -/
@[simp] theorem State.expire_cfg (s : State) : (s.expire).cfg = s.cfg := rfl
@[simp] theorem State.expire_booted (s : State) : (s.expire).booted = s.booted := rfl
@[simp] theorem State.expire_slot (s : State) : (s.expire).slot = s.slot := rfl
@[simp] theorem State.expire_plan (s : State) : (s.expire).plan = s.plan := rfl
@[simp] theorem State.expire_tick (s : State) : (s.expire).tick = s.tick := rfl
@[simp] theorem State.expire_pc (s : State) : (s.expire).pc = s.pc := rfl
@[simp] theorem State.expire_pinA (s : State) : (s.expire).pinA = s.pinA := rfl
@[simp] theorem State.expire_pinB (s : State) : (s.expire).pinB = s.pinB := rfl
@[simp] theorem State.expire_cmp (s : State) : (s.expire).cmp = s.cmp := rfl
@[simp] theorem State.expire_cnt (s : State) : (s.expire).cnt = s.cnt := rfl
@[simp] theorem State.expire_raw (s : State) : (s.expire).raw = s.raw := rfl
@[simp] theorem State.expire_sum (s : State) : (s.expire).sum = s.sum := rfl
@[simp] theorem State.expire_k (s : State) : (s.expire).k = s.k := rfl
@[simp] theorem State.expire_reading (s : State) : (s.expire).reading = s.reading := rfl
@[simp] theorem State.expire_hist (s : State) : (s.expire).hist = s.hist := rfl
@[simp] theorem State.expire_wp (s : State) : (s.expire).wp = s.wp := rfl
@[simp] theorem State.expire_mn (s : State) : (s.expire).mn = s.mn := rfl
@[simp] theorem State.expire_mx (s : State) : (s.expire).mx = s.mx := rfl
@[simp] theorem State.expire_inpeak (s : State) : (s.expire).inpeak = s.inpeak := rfl
@[simp] theorem State.expire_event (s : State) : (s.expire).event = s.event := rfl
@[simp] theorem State.expire_dflag (s : State) : (s.expire).dflag = s.dflag := rfl
@[simp] theorem State.expire_ie (s : State) : (s.expire).ie = s.ie := rfl
@[simp] theorem State.expire_trun (s : State) : (s.expire).trun = s.trun := rfl
@[simp] theorem State.expire_tfired (s : State) : (s.expire).tfired = true := rfl
@[simp] theorem State.expire_tpend (s : State) : (s.expire).tpend = true := rfl
@[simp] theorem State.expire_opend (s : State) : (s.expire).opend = s.opend := rfl
@[simp] theorem State.expire_sleeping (s : State) : (s.expire).sleeping = s.sleeping := rfl
@[simp] theorem State.expire_fault (s : State) : (s.expire).fault = s.fault := rfl
@[simp] theorem State.expire_trace (s : State) : (s.expire).trace = s.trace := rfl

/-! `closeWindow` -/
@[simp] theorem State.closeWindow_cfg (s : State) : (s.closeWindow).cfg = s.cfg := rfl
@[simp] theorem State.closeWindow_booted (s : State) : (s.closeWindow).booted = s.booted := rfl
@[simp] theorem State.closeWindow_slot (s : State) : (s.closeWindow).slot = s.slot := rfl
@[simp] theorem State.closeWindow_plan (s : State) : (s.closeWindow).plan = s.plan := rfl
@[simp] theorem State.closeWindow_tick (s : State) : (s.closeWindow).tick = s.tick := rfl
@[simp] theorem State.closeWindow_pc (s : State) : (s.closeWindow).pc = s.pc := rfl
@[simp] theorem State.closeWindow_pinA (s : State) : (s.closeWindow).pinA = s.pinA := rfl
@[simp] theorem State.closeWindow_pinB (s : State) : (s.closeWindow).pinB = s.pinB := rfl
@[simp] theorem State.closeWindow_cmp (s : State) : (s.closeWindow).cmp = s.cmp := rfl
@[simp] theorem State.closeWindow_cnt (s : State) : (s.closeWindow).cnt = s.cnt := rfl
@[simp] theorem State.closeWindow_raw (s : State) : (s.closeWindow).raw = s.raw := rfl
@[simp] theorem State.closeWindow_sum (s : State) : (s.closeWindow).sum = s.sum := rfl
@[simp] theorem State.closeWindow_k (s : State) : (s.closeWindow).k = s.k := rfl
@[simp] theorem State.closeWindow_reading (s : State) : (s.closeWindow).reading = s.reading := rfl
@[simp] theorem State.closeWindow_hist (s : State) : (s.closeWindow).hist = s.hist := rfl
@[simp] theorem State.closeWindow_wp (s : State) : (s.closeWindow).wp = s.wp := rfl
@[simp] theorem State.closeWindow_mn (s : State) : (s.closeWindow).mn = s.mn := rfl
@[simp] theorem State.closeWindow_mx (s : State) : (s.closeWindow).mx = s.mx := rfl
@[simp] theorem State.closeWindow_inpeak (s : State) : (s.closeWindow).inpeak = s.inpeak := rfl
@[simp] theorem State.closeWindow_event (s : State) : (s.closeWindow).event = s.event := rfl
@[simp] theorem State.closeWindow_dflag (s : State) : (s.closeWindow).dflag = false := rfl
@[simp] theorem State.closeWindow_ie (s : State) : (s.closeWindow).ie = s.ie := rfl
@[simp] theorem State.closeWindow_trun (s : State) : (s.closeWindow).trun = s.trun := rfl
@[simp] theorem State.closeWindow_tfired (s : State) : (s.closeWindow).tfired = s.tfired := rfl
@[simp] theorem State.closeWindow_tpend (s : State) : (s.closeWindow).tpend = false := rfl
@[simp] theorem State.closeWindow_opend (s : State) : (s.closeWindow).opend = s.opend := rfl
@[simp] theorem State.closeWindow_sleeping (s : State) : (s.closeWindow).sleeping = s.sleeping := rfl
@[simp] theorem State.closeWindow_fault (s : State) : (s.closeWindow).fault = s.fault := rfl
@[simp] theorem State.closeWindow_trace (s : State) : (s.closeWindow).trace = s.trace := rfl

/-! `setOpend` -/
@[simp] theorem State.setOpend_cfg (s : State) (b : Bool) : (s.setOpend b).cfg = s.cfg := rfl
@[simp] theorem State.setOpend_booted (s : State) (b : Bool) : (s.setOpend b).booted = s.booted := rfl
@[simp] theorem State.setOpend_slot (s : State) (b : Bool) : (s.setOpend b).slot = s.slot := rfl
@[simp] theorem State.setOpend_plan (s : State) (b : Bool) : (s.setOpend b).plan = s.plan := rfl
@[simp] theorem State.setOpend_tick (s : State) (b : Bool) : (s.setOpend b).tick = s.tick := rfl
@[simp] theorem State.setOpend_pc (s : State) (b : Bool) : (s.setOpend b).pc = s.pc := rfl
@[simp] theorem State.setOpend_pinA (s : State) (b : Bool) : (s.setOpend b).pinA = s.pinA := rfl
@[simp] theorem State.setOpend_pinB (s : State) (b : Bool) : (s.setOpend b).pinB = s.pinB := rfl
@[simp] theorem State.setOpend_cmp (s : State) (b : Bool) : (s.setOpend b).cmp = s.cmp := rfl
@[simp] theorem State.setOpend_cnt (s : State) (b : Bool) : (s.setOpend b).cnt = s.cnt := rfl
@[simp] theorem State.setOpend_raw (s : State) (b : Bool) : (s.setOpend b).raw = s.raw := rfl
@[simp] theorem State.setOpend_sum (s : State) (b : Bool) : (s.setOpend b).sum = s.sum := rfl
@[simp] theorem State.setOpend_k (s : State) (b : Bool) : (s.setOpend b).k = s.k := rfl
@[simp] theorem State.setOpend_reading (s : State) (b : Bool) : (s.setOpend b).reading = s.reading := rfl
@[simp] theorem State.setOpend_hist (s : State) (b : Bool) : (s.setOpend b).hist = s.hist := rfl
@[simp] theorem State.setOpend_wp (s : State) (b : Bool) : (s.setOpend b).wp = s.wp := rfl
@[simp] theorem State.setOpend_mn (s : State) (b : Bool) : (s.setOpend b).mn = s.mn := rfl
@[simp] theorem State.setOpend_mx (s : State) (b : Bool) : (s.setOpend b).mx = s.mx := rfl
@[simp] theorem State.setOpend_inpeak (s : State) (b : Bool) : (s.setOpend b).inpeak = s.inpeak := rfl
@[simp] theorem State.setOpend_event (s : State) (b : Bool) : (s.setOpend b).event = s.event := rfl
@[simp] theorem State.setOpend_dflag (s : State) (b : Bool) : (s.setOpend b).dflag = s.dflag := rfl
@[simp] theorem State.setOpend_ie (s : State) (b : Bool) : (s.setOpend b).ie = s.ie := rfl
@[simp] theorem State.setOpend_trun (s : State) (b : Bool) : (s.setOpend b).trun = s.trun := rfl
@[simp] theorem State.setOpend_tfired (s : State) (b : Bool) : (s.setOpend b).tfired = s.tfired := rfl
@[simp] theorem State.setOpend_tpend (s : State) (b : Bool) : (s.setOpend b).tpend = s.tpend := rfl
@[simp] theorem State.setOpend_opend (s : State) (b : Bool) : (s.setOpend b).opend = b := rfl
@[simp] theorem State.setOpend_sleeping (s : State) (b : Bool) : (s.setOpend b).sleeping = s.sleeping := rfl
@[simp] theorem State.setOpend_fault (s : State) (b : Bool) : (s.setOpend b).fault = s.fault := rfl
@[simp] theorem State.setOpend_trace (s : State) (b : Bool) : (s.setOpend b).trace = s.trace := rfl

/-! `setFault` -/
@[simp] theorem State.setFault_cfg (s : State) (f : FaultRecord) : (s.setFault f).cfg = s.cfg := rfl
@[simp] theorem State.setFault_booted (s : State) (f : FaultRecord) : (s.setFault f).booted = s.booted := rfl
@[simp] theorem State.setFault_slot (s : State) (f : FaultRecord) : (s.setFault f).slot = s.slot := rfl
@[simp] theorem State.setFault_plan (s : State) (f : FaultRecord) : (s.setFault f).plan = s.plan := rfl
@[simp] theorem State.setFault_tick (s : State) (f : FaultRecord) : (s.setFault f).tick = s.tick := rfl
@[simp] theorem State.setFault_pc (s : State) (f : FaultRecord) : (s.setFault f).pc = s.pc := rfl
@[simp] theorem State.setFault_pinA (s : State) (f : FaultRecord) : (s.setFault f).pinA = s.pinA := rfl
@[simp] theorem State.setFault_pinB (s : State) (f : FaultRecord) : (s.setFault f).pinB = s.pinB := rfl
@[simp] theorem State.setFault_cmp (s : State) (f : FaultRecord) : (s.setFault f).cmp = s.cmp := rfl
@[simp] theorem State.setFault_cnt (s : State) (f : FaultRecord) : (s.setFault f).cnt = s.cnt := rfl
@[simp] theorem State.setFault_raw (s : State) (f : FaultRecord) : (s.setFault f).raw = s.raw := rfl
@[simp] theorem State.setFault_sum (s : State) (f : FaultRecord) : (s.setFault f).sum = s.sum := rfl
@[simp] theorem State.setFault_k (s : State) (f : FaultRecord) : (s.setFault f).k = s.k := rfl
@[simp] theorem State.setFault_reading (s : State) (f : FaultRecord) : (s.setFault f).reading = s.reading := rfl
@[simp] theorem State.setFault_hist (s : State) (f : FaultRecord) : (s.setFault f).hist = s.hist := rfl
@[simp] theorem State.setFault_wp (s : State) (f : FaultRecord) : (s.setFault f).wp = s.wp := rfl
@[simp] theorem State.setFault_mn (s : State) (f : FaultRecord) : (s.setFault f).mn = s.mn := rfl
@[simp] theorem State.setFault_mx (s : State) (f : FaultRecord) : (s.setFault f).mx = s.mx := rfl
@[simp] theorem State.setFault_inpeak (s : State) (f : FaultRecord) : (s.setFault f).inpeak = s.inpeak := rfl
@[simp] theorem State.setFault_event (s : State) (f : FaultRecord) : (s.setFault f).event = s.event := rfl
@[simp] theorem State.setFault_dflag (s : State) (f : FaultRecord) : (s.setFault f).dflag = s.dflag := rfl
@[simp] theorem State.setFault_ie (s : State) (f : FaultRecord) : (s.setFault f).ie = s.ie := rfl
@[simp] theorem State.setFault_trun (s : State) (f : FaultRecord) : (s.setFault f).trun = s.trun := rfl
@[simp] theorem State.setFault_tfired (s : State) (f : FaultRecord) : (s.setFault f).tfired = s.tfired := rfl
@[simp] theorem State.setFault_tpend (s : State) (f : FaultRecord) : (s.setFault f).tpend = s.tpend := rfl
@[simp] theorem State.setFault_opend (s : State) (f : FaultRecord) : (s.setFault f).opend = s.opend := rfl
@[simp] theorem State.setFault_sleeping (s : State) (f : FaultRecord) : (s.setFault f).sleeping = s.sleeping := rfl
@[simp] theorem State.setFault_fault (s : State) (f : FaultRecord) : (s.setFault f).fault = some f := rfl
@[simp] theorem State.setFault_trace (s : State) (f : FaultRecord) : (s.setFault f).trace = s.trace := rfl

/-! `boot` -/
@[simp] theorem State.boot_cfg (s : State) : (s.boot).cfg = s.cfg := rfl
@[simp] theorem State.boot_booted (s : State) : (s.boot).booted = true := rfl
@[simp] theorem State.boot_slot (s : State) : (s.boot).slot = s.slot := rfl
@[simp] theorem State.boot_plan (s : State) : (s.boot).plan = s.plan := rfl
@[simp] theorem State.boot_tick (s : State) : (s.boot).tick = s.tick := rfl
@[simp] theorem State.boot_pc (s : State) : (s.boot).pc = s.pc := rfl
@[simp] theorem State.boot_pinA (s : State) : (s.boot).pinA = s.pinA := rfl
@[simp] theorem State.boot_pinB (s : State) : (s.boot).pinB = s.pinB := rfl
@[simp] theorem State.boot_cmp (s : State) : (s.boot).cmp = s.cmp := rfl
@[simp] theorem State.boot_cnt (s : State) : (s.boot).cnt = s.cnt := rfl
@[simp] theorem State.boot_raw (s : State) : (s.boot).raw = s.raw := rfl
@[simp] theorem State.boot_sum (s : State) : (s.boot).sum = s.sum := rfl
@[simp] theorem State.boot_k (s : State) : (s.boot).k = s.k := rfl
@[simp] theorem State.boot_reading (s : State) : (s.boot).reading = s.reading := rfl
@[simp] theorem State.boot_hist (s : State) : (s.boot).hist = s.hist := rfl
@[simp] theorem State.boot_wp (s : State) : (s.boot).wp = s.wp := rfl
@[simp] theorem State.boot_mn (s : State) : (s.boot).mn = s.mn := rfl
@[simp] theorem State.boot_mx (s : State) : (s.boot).mx = s.mx := rfl
@[simp] theorem State.boot_inpeak (s : State) : (s.boot).inpeak = s.inpeak := rfl
@[simp] theorem State.boot_event (s : State) : (s.boot).event = s.event := rfl
@[simp] theorem State.boot_dflag (s : State) : (s.boot).dflag = s.dflag := rfl
@[simp] theorem State.boot_ie (s : State) : (s.boot).ie = true := rfl
@[simp] theorem State.boot_trun (s : State) : (s.boot).trun = s.trun := rfl
@[simp] theorem State.boot_tfired (s : State) : (s.boot).tfired = s.tfired := rfl
@[simp] theorem State.boot_tpend (s : State) : (s.boot).tpend = s.tpend := rfl
@[simp] theorem State.boot_opend (s : State) : (s.boot).opend = s.opend := rfl
@[simp] theorem State.boot_sleeping (s : State) : (s.boot).sleeping = s.sleeping := rfl
@[simp] theorem State.boot_fault (s : State) : (s.boot).fault = s.fault := rfl
@[simp] theorem State.boot_trace (s : State) : (s.boot).trace = s.trace := rfl

/-! `passSlot` -/
@[simp] theorem State.passSlot_cfg (s : State) : (s.passSlot).cfg = s.cfg := rfl
@[simp] theorem State.passSlot_booted (s : State) : (s.passSlot).booted = s.booted := rfl
@[simp] theorem State.passSlot_slot (s : State) : (s.passSlot).slot = s.nextSlot := rfl
@[simp] theorem State.passSlot_plan (s : State) : (s.passSlot).plan = s.plan.tail := rfl
@[simp] theorem State.passSlot_tick (s : State) : (s.passSlot).tick = s.tick + 1 := rfl
@[simp] theorem State.passSlot_pc (s : State) : (s.passSlot).pc = s.pc := rfl
@[simp] theorem State.passSlot_pinA (s : State) : (s.passSlot).pinA = s.pinA := rfl
@[simp] theorem State.passSlot_pinB (s : State) : (s.passSlot).pinB = s.pinB := rfl
@[simp] theorem State.passSlot_cmp (s : State) : (s.passSlot).cmp = s.cmp := rfl
@[simp] theorem State.passSlot_cnt (s : State) : (s.passSlot).cnt = s.cnt := rfl
@[simp] theorem State.passSlot_raw (s : State) : (s.passSlot).raw = s.raw := rfl
@[simp] theorem State.passSlot_sum (s : State) : (s.passSlot).sum = s.sum := rfl
@[simp] theorem State.passSlot_k (s : State) : (s.passSlot).k = s.k := rfl
@[simp] theorem State.passSlot_reading (s : State) : (s.passSlot).reading = s.reading := rfl
@[simp] theorem State.passSlot_hist (s : State) : (s.passSlot).hist = s.hist := rfl
@[simp] theorem State.passSlot_wp (s : State) : (s.passSlot).wp = s.wp := rfl
@[simp] theorem State.passSlot_mn (s : State) : (s.passSlot).mn = s.mn := rfl
@[simp] theorem State.passSlot_mx (s : State) : (s.passSlot).mx = s.mx := rfl
@[simp] theorem State.passSlot_inpeak (s : State) : (s.passSlot).inpeak = s.inpeak := rfl
@[simp] theorem State.passSlot_event (s : State) : (s.passSlot).event = s.event := rfl
@[simp] theorem State.passSlot_dflag (s : State) : (s.passSlot).dflag = s.dflag := rfl
@[simp] theorem State.passSlot_ie (s : State) : (s.passSlot).ie = s.ie := rfl
@[simp] theorem State.passSlot_trun (s : State) : (s.passSlot).trun = s.trun := rfl
@[simp] theorem State.passSlot_tfired (s : State) : (s.passSlot).tfired = s.tfired := rfl
@[simp] theorem State.passSlot_tpend (s : State) : (s.passSlot).tpend = s.tpend := rfl
@[simp] theorem State.passSlot_opend (s : State) : (s.passSlot).opend = s.opend := rfl
@[simp] theorem State.passSlot_sleeping (s : State) : (s.passSlot).sleeping = s.sleeping := rfl
@[simp] theorem State.passSlot_fault (s : State) : (s.passSlot).fault = s.fault := rfl
@[simp] theorem State.passSlot_trace (s : State) : (s.passSlot).trace = s.trace := rfl

/-! `setRom` -/
@[simp] theorem State.setRom_cfg (s : State) (rom : List Word) : (s.setRom rom).cfg = { s.cfg with rom := rom } := rfl
@[simp] theorem State.setRom_booted (s : State) (rom : List Word) : (s.setRom rom).booted = s.booted := rfl
@[simp] theorem State.setRom_slot (s : State) (rom : List Word) : (s.setRom rom).slot = s.slot := rfl
@[simp] theorem State.setRom_plan (s : State) (rom : List Word) : (s.setRom rom).plan = s.plan := rfl
@[simp] theorem State.setRom_tick (s : State) (rom : List Word) : (s.setRom rom).tick = s.tick := rfl
@[simp] theorem State.setRom_pc (s : State) (rom : List Word) : (s.setRom rom).pc = s.pc := rfl
@[simp] theorem State.setRom_pinA (s : State) (rom : List Word) : (s.setRom rom).pinA = s.pinA := rfl
@[simp] theorem State.setRom_pinB (s : State) (rom : List Word) : (s.setRom rom).pinB = s.pinB := rfl
@[simp] theorem State.setRom_cmp (s : State) (rom : List Word) : (s.setRom rom).cmp = s.cmp := rfl
@[simp] theorem State.setRom_cnt (s : State) (rom : List Word) : (s.setRom rom).cnt = s.cnt := rfl
@[simp] theorem State.setRom_raw (s : State) (rom : List Word) : (s.setRom rom).raw = s.raw := rfl
@[simp] theorem State.setRom_sum (s : State) (rom : List Word) : (s.setRom rom).sum = s.sum := rfl
@[simp] theorem State.setRom_k (s : State) (rom : List Word) : (s.setRom rom).k = s.k := rfl
@[simp] theorem State.setRom_reading (s : State) (rom : List Word) : (s.setRom rom).reading = s.reading := rfl
@[simp] theorem State.setRom_hist (s : State) (rom : List Word) : (s.setRom rom).hist = s.hist := rfl
@[simp] theorem State.setRom_wp (s : State) (rom : List Word) : (s.setRom rom).wp = s.wp := rfl
@[simp] theorem State.setRom_mn (s : State) (rom : List Word) : (s.setRom rom).mn = s.mn := rfl
@[simp] theorem State.setRom_mx (s : State) (rom : List Word) : (s.setRom rom).mx = s.mx := rfl
@[simp] theorem State.setRom_inpeak (s : State) (rom : List Word) : (s.setRom rom).inpeak = s.inpeak := rfl
@[simp] theorem State.setRom_event (s : State) (rom : List Word) : (s.setRom rom).event = s.event := rfl
@[simp] theorem State.setRom_dflag (s : State) (rom : List Word) : (s.setRom rom).dflag = s.dflag := rfl
@[simp] theorem State.setRom_ie (s : State) (rom : List Word) : (s.setRom rom).ie = s.ie := rfl
@[simp] theorem State.setRom_trun (s : State) (rom : List Word) : (s.setRom rom).trun = s.trun := rfl
@[simp] theorem State.setRom_tfired (s : State) (rom : List Word) : (s.setRom rom).tfired = s.tfired := rfl
@[simp] theorem State.setRom_tpend (s : State) (rom : List Word) : (s.setRom rom).tpend = s.tpend := rfl
@[simp] theorem State.setRom_opend (s : State) (rom : List Word) : (s.setRom rom).opend = s.opend := rfl
@[simp] theorem State.setRom_sleeping (s : State) (rom : List Word) : (s.setRom rom).sleeping = s.sleeping := rfl
@[simp] theorem State.setRom_fault (s : State) (rom : List Word) : (s.setRom rom).fault = s.fault := rfl
@[simp] theorem State.setRom_trace (s : State) (rom : List Word) : (s.setRom rom).trace = s.trace := rfl

/-! `setSlot` -/
@[simp] theorem State.setSlot_cfg (s : State) (x : Slot) : (s.setSlot x).cfg = s.cfg := rfl
@[simp] theorem State.setSlot_booted (s : State) (x : Slot) : (s.setSlot x).booted = s.booted := rfl
@[simp] theorem State.setSlot_slot (s : State) (x : Slot) : (s.setSlot x).slot = x := rfl
@[simp] theorem State.setSlot_plan (s : State) (x : Slot) : (s.setSlot x).plan = s.plan := rfl
@[simp] theorem State.setSlot_tick (s : State) (x : Slot) : (s.setSlot x).tick = s.tick := rfl
@[simp] theorem State.setSlot_pc (s : State) (x : Slot) : (s.setSlot x).pc = s.pc := rfl
@[simp] theorem State.setSlot_pinA (s : State) (x : Slot) : (s.setSlot x).pinA = s.pinA := rfl
@[simp] theorem State.setSlot_pinB (s : State) (x : Slot) : (s.setSlot x).pinB = s.pinB := rfl
@[simp] theorem State.setSlot_cmp (s : State) (x : Slot) : (s.setSlot x).cmp = s.cmp := rfl
@[simp] theorem State.setSlot_cnt (s : State) (x : Slot) : (s.setSlot x).cnt = s.cnt := rfl
@[simp] theorem State.setSlot_raw (s : State) (x : Slot) : (s.setSlot x).raw = s.raw := rfl
@[simp] theorem State.setSlot_sum (s : State) (x : Slot) : (s.setSlot x).sum = s.sum := rfl
@[simp] theorem State.setSlot_k (s : State) (x : Slot) : (s.setSlot x).k = s.k := rfl
@[simp] theorem State.setSlot_reading (s : State) (x : Slot) : (s.setSlot x).reading = s.reading := rfl
@[simp] theorem State.setSlot_hist (s : State) (x : Slot) : (s.setSlot x).hist = s.hist := rfl
@[simp] theorem State.setSlot_wp (s : State) (x : Slot) : (s.setSlot x).wp = s.wp := rfl
@[simp] theorem State.setSlot_mn (s : State) (x : Slot) : (s.setSlot x).mn = s.mn := rfl
@[simp] theorem State.setSlot_mx (s : State) (x : Slot) : (s.setSlot x).mx = s.mx := rfl
@[simp] theorem State.setSlot_inpeak (s : State) (x : Slot) : (s.setSlot x).inpeak = s.inpeak := rfl
@[simp] theorem State.setSlot_event (s : State) (x : Slot) : (s.setSlot x).event = s.event := rfl
@[simp] theorem State.setSlot_dflag (s : State) (x : Slot) : (s.setSlot x).dflag = s.dflag := rfl
@[simp] theorem State.setSlot_ie (s : State) (x : Slot) : (s.setSlot x).ie = s.ie := rfl
@[simp] theorem State.setSlot_trun (s : State) (x : Slot) : (s.setSlot x).trun = s.trun := rfl
@[simp] theorem State.setSlot_tfired (s : State) (x : Slot) : (s.setSlot x).tfired = s.tfired := rfl
@[simp] theorem State.setSlot_tpend (s : State) (x : Slot) : (s.setSlot x).tpend = s.tpend := rfl
@[simp] theorem State.setSlot_opend (s : State) (x : Slot) : (s.setSlot x).opend = s.opend := rfl
@[simp] theorem State.setSlot_sleeping (s : State) (x : Slot) : (s.setSlot x).sleeping = s.sleeping := rfl
@[simp] theorem State.setSlot_fault (s : State) (x : Slot) : (s.setSlot x).fault = s.fault := rfl
@[simp] theorem State.setSlot_trace (s : State) (x : Slot) : (s.setSlot x).trace = s.trace := rfl

/-! `clearFault` -/
@[simp] theorem State.clearFault_cfg (s : State) : (s.clearFault).cfg = s.cfg := rfl
@[simp] theorem State.clearFault_booted (s : State) : (s.clearFault).booted = s.booted := rfl
@[simp] theorem State.clearFault_slot (s : State) : (s.clearFault).slot = s.slot := rfl
@[simp] theorem State.clearFault_plan (s : State) : (s.clearFault).plan = s.plan := rfl
@[simp] theorem State.clearFault_tick (s : State) : (s.clearFault).tick = s.tick := rfl
@[simp] theorem State.clearFault_pc (s : State) : (s.clearFault).pc = s.pc := rfl
@[simp] theorem State.clearFault_pinA (s : State) : (s.clearFault).pinA = s.pinA := rfl
@[simp] theorem State.clearFault_pinB (s : State) : (s.clearFault).pinB = s.pinB := rfl
@[simp] theorem State.clearFault_cmp (s : State) : (s.clearFault).cmp = s.cmp := rfl
@[simp] theorem State.clearFault_cnt (s : State) : (s.clearFault).cnt = s.cnt := rfl
@[simp] theorem State.clearFault_raw (s : State) : (s.clearFault).raw = s.raw := rfl
@[simp] theorem State.clearFault_sum (s : State) : (s.clearFault).sum = s.sum := rfl
@[simp] theorem State.clearFault_k (s : State) : (s.clearFault).k = s.k := rfl
@[simp] theorem State.clearFault_reading (s : State) : (s.clearFault).reading = s.reading := rfl
@[simp] theorem State.clearFault_hist (s : State) : (s.clearFault).hist = s.hist := rfl
@[simp] theorem State.clearFault_wp (s : State) : (s.clearFault).wp = s.wp := rfl
@[simp] theorem State.clearFault_mn (s : State) : (s.clearFault).mn = s.mn := rfl
@[simp] theorem State.clearFault_mx (s : State) : (s.clearFault).mx = s.mx := rfl
@[simp] theorem State.clearFault_inpeak (s : State) : (s.clearFault).inpeak = s.inpeak := rfl
@[simp] theorem State.clearFault_event (s : State) : (s.clearFault).event = s.event := rfl
@[simp] theorem State.clearFault_dflag (s : State) : (s.clearFault).dflag = s.dflag := rfl
@[simp] theorem State.clearFault_ie (s : State) : (s.clearFault).ie = s.ie := rfl
@[simp] theorem State.clearFault_trun (s : State) : (s.clearFault).trun = s.trun := rfl
@[simp] theorem State.clearFault_tfired (s : State) : (s.clearFault).tfired = s.tfired := rfl
@[simp] theorem State.clearFault_tpend (s : State) : (s.clearFault).tpend = s.tpend := rfl
@[simp] theorem State.clearFault_opend (s : State) : (s.clearFault).opend = s.opend := rfl
@[simp] theorem State.clearFault_sleeping (s : State) : (s.clearFault).sleeping = s.sleeping := rfl
@[simp] theorem State.clearFault_fault (s : State) : (s.clearFault).fault = none := rfl
@[simp] theorem State.clearFault_trace (s : State) : (s.clearFault).trace = s.trace := rfl

end Sys2Proof.Machine
end

