-- ==== Sys2Proof/Laws/Ops.lean ====
section
/-! SUPPORT. What the shared operations of Machine/Ops.lean do, said once: the provers cite these instead of unfolding
the operations. -/

namespace Sys2Proof.Machine

@[simp] theorem raiseFault_eq (f : FaultRecord) (s : State) : raiseFault f s = s.setFault f := rfl

@[simp] theorem withWritten_none {α : Type} (r : RegName) (s : State) (go : α → State) :
    withWritten r none s go = s.setFault (.unwritten r) := rfl

@[simp] theorem withWritten_some {α : Type} (r : RegName) (x : α) (s : State) (go : α → State) :
    withWritten r (some x) s go = go x := rfl

/-- All a checked read can do: fault on `⊥`, or go on with the value. -/
theorem withWritten_cases {α : Type} (r : RegName) (v : Option α) (s : State) (go : α → State) :
    (v = none ∧ withWritten r v s go = s.setFault (.unwritten r)) ∨
    (∃ x, v = some x ∧ withWritten r v s go = go x) := by
  cases v with
  | none => exact .inl ⟨rfl, rfl⟩
  | some x => exact .inr ⟨x, rfl, rfl⟩

@[simp] theorem advancePc_eq (s : State) : advancePc s = s.setPc (s.pc + 1) := rfl

/-- A branch writes `pc` and nothing else. -/
theorem branchIf_eq (taken : Bool) (off : Int) (s : State) :
    branchIf taken off s = s.setPc (if taken then branchTarget s.pc off else s.pc + 1) := by
  cases taken <;> rfl

@[simp] theorem drivePin_eq (p : Pin) (m : PinMode) (s : State) :
    drivePin p m s = (s.setPin p m).logEvent (.pin p m) := rfl

/-- The driven pin has the new mode. -/
theorem drivePin_pin_same (p : Pin) (m : PinMode) (s : State) : (drivePin p m s).pin p = m := by
  cases p <;> rfl

/-- The other pin keeps its mode. -/
theorem drivePin_pin_other {p q : Pin} (m : PinMode) (s : State) (h : q ≠ p) : (drivePin p m s).pin q = s.pin q := by
  cases p <;> cases q <;> first | rfl | exact absurd rfl h

/-- All an emit can do: hand the record over and go on, or hold. -/
theorem emitRecord_eq (e : TraceEvent) (s : State) :
    emitRecord e s = if s.slot.outReady then (s.logEvent e).setPc (s.pc + 1) else s := rfl

@[simp] theorem leaveInterrupt_eq (s : State) : leaveInterrupt s = s.setSleeping false := rfl

@[simp] theorem takeInterrupt_timer (s : State) :
    takeInterrupt .timer s = s.closeWindow.setSleeping false := rfl

@[simp] theorem takeInterrupt_other (s : State) :
    takeInterrupt .other s = (s.setOpend false).setSleeping false := rfl

theorem intEnabled_iff (src : Source) (s : State) :
    intEnabled src s = true ↔ s.fault = none ∧ s.ie = true ∧ s.pending src = true := by
  simp [intEnabled]

theorem tmrEnabled_iff (s : State) :
    tmrEnabled s = true ↔ s.fault = none ∧ s.trun = true ∧ s.tfired = false := by
  simp [tmrEnabled]

end Sys2Proof.Machine
end

