-- ==== Sys2Proof/Laws/Exec.lean ====
section
/-! SUPPORT. What the operands, the conditions and the commands can do, said once: the branch target, the range test of
`ACCADD`, the two folds of `SCAN`, the placed word, and the fields that no command writes. -/

namespace Sys2Proof.Machine

/-- The branch target as an integer (30_encoding.md R75). -/
theorem branchTarget_toNat (pc : RomIndex) (off : Int) :
    ((branchTarget pc off).toNat : Int) = ((pc.toNat : Int) + off) % 2 ^ 8 := by
  simp only [branchTarget, BitVec.toNat_ofInt]
  omega

theorem accumulatorOverflows_iff (t : Total) (r : Count) (i : SubIndex) :
    accumulatorOverflows t r i = true ↔ 2 ^ 32 - 1 < t.toNat + r.toNat ∨ 2 ^ 17 - 1 < i.toNat + 1 := by
  simp [accumulatorOverflows]

/-- A sum that fits is exact. -/
theorem sum_toNat (t : Total) (r : Count) (h : t.toNat + r.toNat ≤ 2 ^ 32 - 1) :
    (t + r.zeroExtend 32).toNat = t.toNat + r.toNat := by
  have := r.isLt
  simp [BitVec.toNat_add]
  omega

/-- An index that fits is exact. -/
theorem index_toNat (i : SubIndex) (h : i.toNat + 1 ≤ 2 ^ 17 - 1) : (i + 1).toNat = i.toNat + 1 := by
  simp [BitVec.toNat_add]
  omega

/-- The minimum fold of a list that is not empty is one of its values. -/
theorem foldr_lower_mem (l : List Count) (h : l ≠ []) : l.foldr Count.lower 0xFFFF ∈ l := by
  induction l with
  | nil => exact absurd rfl h
  | cons a l ih =>
    simp only [List.foldr_cons]
    by_cases hl : l = []
    · subst hl
      have : Count.lower a 0xFFFF = a := by
        unfold Count.lower
        rw [if_pos]
        have := a.isLt
        show a.toNat ≤ 65535
        omega
      exact List.mem_singleton.mpr this
    · unfold Count.lower
      split
      · simp
      · exact List.mem_cons_of_mem _ (ih hl)

/-- The maximum fold of a list that is not empty is one of its values. -/
theorem foldr_upper_mem (l : List Count) (h : l ≠ []) : l.foldr Count.upper 0 ∈ l := by
  induction l with
  | nil => exact absurd rfl h
  | cons a l ih =>
    simp only [List.foldr_cons]
    by_cases hl : l = []
    · subst hl
      unfold Count.upper
      split
      · rename_i h
        simp only [List.foldr_nil] at h ⊢
        rw [show a = 0 from BitVec.eq_of_toNat_eq (by simpa using h)]
        exact List.mem_singleton.mpr rfl
      · simp
    · unfold Count.upper
      split
      · exact List.mem_cons_of_mem _ (ih hl)
      · simp

/-- The placed word is read back. -/
theorem placeWord_same (l : List Word) (i : Nat) (w : Word) : (placeWord l i w)[i]? = some w := by
  induction i generalizing l with
  | zero => cases l <;> rfl
  | succ i ih => cases l <;> simp [placeWord, ih]

/-- The other words of the old ROM stay. -/
theorem placeWord_other (l : List Word) (i j : Nat) (w : Word) (h : j ≠ i) (hj : j < l.length) :
    (placeWord l i w)[j]? = l[j]? := by
  induction i generalizing l j with
  | zero =>
    cases l with
    | nil => simp at hj
    | cons x rest =>
      cases j with
      | zero => exact absurd rfl h
      | succ j => simp [placeWord]
  | succ i ih =>
    cases l with
    | nil => simp at hj
    | cons x rest =>
      cases j with
      | zero => simp [placeWord]
      | succ j =>
        simp only [placeWord, List.getElem?_cons_succ]
        exact ih rest j (by omega) (by simpa using hj)

theorem placeWord_length (l : List Word) (i : Nat) (w : Word) :
    (placeWord l i w).length = max l.length (i + 1) := by
  induction i generalizing l with
  | zero => cases l <;> simp [placeWord]
  | succ i ih => cases l <;> simp [placeWord, ih]

/-- The fields no command writes: the configuration, the model's own fields, and the two pending bits of the sources
but for `DTSTART`. -/
theorem exec_keeps {i : Instr} {s t : State} (h : exec i s = .next t) :
    t.cfg = s.cfg ∧ t.booted = s.booted ∧ t.slot = s.slot ∧ t.plan = s.plan ∧ t.tick = s.tick ∧
    t.opend = s.opend ∧ (i ≠ .dtstart → t.tpend = s.tpend) := by
  cases i with
  | bra _ | bflag _ | bnflag _ | bpass _ | bsub _ =>
    simp only [exec, execBra, execBflag, execBnflag, execBpass, execBsub, branchIf_eq, withWritten,
      Host.Outcome.next.injEq] at h
    repeat' split at h
    all_goals (subst h; simp)
  | chg p =>
    simp only [exec, execChg, withKickRegister, chargeDrive, withWritten, Host.Outcome.next.injEq] at h
    repeat' split at h
    all_goals (subst h; simp)
  | cdelay =>
    simp only [exec, execCdelay, chargeDelayEvent, Host.Outcome.next.injEq] at h
    repeat' split at h
    all_goals (subst h; simp)
  | emitev | emitdg =>
    simp only [exec, execEmitev, execEmitdg, emitRecord_eq, withWritten, Host.Outcome.next.injEq] at h
    repeat' split at h
    all_goals (subst h; simp)
  | push =>
    simp only [exec, execPush, withWritten, Host.Outcome.next.injEq] at h
    repeat' split at h
    all_goals (subst h; simp)
  | _ =>
    simp only [exec, execNop, execCli, execSei, execSleepen, execDrvl, execDrvh, execFloatPin, execPullup, execDrvl2,
      execCmprd, execDtstart, execDtstop, execCntclr, execCntinc, execRawset, execAccclr, execAccadd, execAvg, execScan,
      execEval, evaluate, withWritten, Host.Outcome.next.injEq] at h
    repeat' split at h
    all_goals (subst h; simp)

end Sys2Proof.Machine
end

