-- ==== Sys2Proof/Laws/PerInstr.lean ====
section
/-! SUPPORT. The statements made for every command, one lemma per constructor: `EncodingFitsRow`, the word of a command
fits its own row of the opcode table (30_encoding.md R77). -/

/-- The row of the opcode table with the command's mnemonic covers the command's word. -/
def Sys2Proof.Laws.EncodingFitsRow.Statement (i : Sys2Proof.Instr) : Prop :=
  ∃ r, r ∈ Sys2Proof.opcodeTable ∧ r.mnemonic = i.mnemonic ∧ r.covers (Sys2Proof.encode i) = true

namespace Sys2Proof.Laws

/-- A format-B word fits the row with its condition field, whatever the offset. -/
theorem EncodingFitsRow.branch_covers (cond : BitVec 4) (off : Int) (name : String) :
    (OpcodeRow.mk name ((7 : BitVec 4) ++ cond ++ (0 : BitVec 8)) 0xFF00).covers (encodeB cond off) = true := by
  unfold encodeB
  generalize BitVec.ofInt 8 off = x
  have h : (0xFF00#16 : Word) = 0xFF#8 ++ 0#8 := rfl
  have hc : ((7 : BitVec 4) ++ cond) &&& 0xFF#8 = (7 : BitVec 4) ++ cond := BitVec.and_allOnes
  show ((7 : BitVec 4) ++ cond ++ x &&& 0xFF00#16 == _) = true
  rw [beq_iff_eq, h, BitVec.and_append, hc, BitVec.and_zero]
  rfl

theorem EncodingFitsRow.nop : EncodingFitsRow.Statement .nop :=
  ⟨⟨"NOP", 0x0000, 0xFFFF⟩, by decide, rfl, by decide⟩

theorem EncodingFitsRow.cli : EncodingFitsRow.Statement .cli :=
  ⟨⟨"CLI", 0x0100, 0xFFFF⟩, by decide, rfl, by decide⟩

theorem EncodingFitsRow.sei : EncodingFitsRow.Statement .sei :=
  ⟨⟨"SEI", 0x0200, 0xFFFF⟩, by decide, rfl, by decide⟩

theorem EncodingFitsRow.sleepen : EncodingFitsRow.Statement .sleepen :=
  ⟨⟨"SLEEPEN", 0x0300, 0xFFFF⟩, by decide, rfl, by decide⟩

theorem EncodingFitsRow.drvl (p : Pin) : EncodingFitsRow.Statement (.drvl p) := by
  cases p <;> exact ⟨⟨"DRVL", 0x1000, 0xFFFE⟩, by decide, rfl, by decide⟩

theorem EncodingFitsRow.drvh (p : Pin) : EncodingFitsRow.Statement (.drvh p) := by
  cases p <;> exact ⟨⟨"DRVH", 0x1100, 0xFFFE⟩, by decide, rfl, by decide⟩

theorem EncodingFitsRow.floatPin (p : Pin) : EncodingFitsRow.Statement (.floatPin p) := by
  cases p <;> exact ⟨⟨"FLOAT", 0x1200, 0xFFFE⟩, by decide, rfl, by decide⟩

theorem EncodingFitsRow.pullup (p : Pin) : EncodingFitsRow.Statement (.pullup p) := by
  cases p <;> exact ⟨⟨"PULLUP", 0x1300, 0xFFFE⟩, by decide, rfl, by decide⟩

theorem EncodingFitsRow.drvl2 : EncodingFitsRow.Statement .drvl2 :=
  ⟨⟨"DRVL2", 0x1400, 0xFFFF⟩, by decide, rfl, by decide⟩

theorem EncodingFitsRow.chg (p : Pin) : EncodingFitsRow.Statement (.chg p) := by
  cases p <;> exact ⟨⟨"CHG", 0x1500, 0xFFFE⟩, by decide, rfl, by decide⟩

theorem EncodingFitsRow.cmprd : EncodingFitsRow.Statement .cmprd :=
  ⟨⟨"CMPRD", 0x2000, 0xFFFF⟩, by decide, rfl, by decide⟩

theorem EncodingFitsRow.cdelay : EncodingFitsRow.Statement .cdelay :=
  ⟨⟨"CDELAY", 0x2100, 0xFFFF⟩, by decide, rfl, by decide⟩

theorem EncodingFitsRow.dtstart : EncodingFitsRow.Statement .dtstart :=
  ⟨⟨"DTSTART", 0x3000, 0xFFFF⟩, by decide, rfl, by decide⟩

theorem EncodingFitsRow.dtstop : EncodingFitsRow.Statement .dtstop :=
  ⟨⟨"DTSTOP", 0x3100, 0xFFFF⟩, by decide, rfl, by decide⟩

theorem EncodingFitsRow.cntclr : EncodingFitsRow.Statement .cntclr :=
  ⟨⟨"CNTCLR", 0x4000, 0xFFFF⟩, by decide, rfl, by decide⟩

theorem EncodingFitsRow.cntinc : EncodingFitsRow.Statement .cntinc :=
  ⟨⟨"CNTINC", 0x4100, 0xFFFF⟩, by decide, rfl, by decide⟩

theorem EncodingFitsRow.rawset : EncodingFitsRow.Statement .rawset :=
  ⟨⟨"RAWSET", 0x4200, 0xFFFF⟩, by decide, rfl, by decide⟩

theorem EncodingFitsRow.accclr : EncodingFitsRow.Statement .accclr :=
  ⟨⟨"ACCCLR", 0x4300, 0xFFFF⟩, by decide, rfl, by decide⟩

theorem EncodingFitsRow.accadd : EncodingFitsRow.Statement .accadd :=
  ⟨⟨"ACCADD", 0x4400, 0xFFFF⟩, by decide, rfl, by decide⟩

theorem EncodingFitsRow.avg : EncodingFitsRow.Statement .avg :=
  ⟨⟨"AVG", 0x4500, 0xFFFF⟩, by decide, rfl, by decide⟩

theorem EncodingFitsRow.push : EncodingFitsRow.Statement .push :=
  ⟨⟨"PUSH", 0x5000, 0xFFFF⟩, by decide, rfl, by decide⟩

theorem EncodingFitsRow.scan : EncodingFitsRow.Statement .scan :=
  ⟨⟨"SCAN", 0x5100, 0xFFFF⟩, by decide, rfl, by decide⟩

theorem EncodingFitsRow.eval : EncodingFitsRow.Statement .eval :=
  ⟨⟨"EVAL", 0x5200, 0xFFFF⟩, by decide, rfl, by decide⟩

theorem EncodingFitsRow.emitev : EncodingFitsRow.Statement .emitev :=
  ⟨⟨"EMITEV", 0x6000, 0xFFFF⟩, by decide, rfl, by decide⟩

theorem EncodingFitsRow.emitdg : EncodingFitsRow.Statement .emitdg :=
  ⟨⟨"EMITDG", 0x6100, 0xFFFF⟩, by decide, rfl, by decide⟩

theorem EncodingFitsRow.bra (off : Int) : EncodingFitsRow.Statement (.bra off) :=
  ⟨⟨"BRA", 0x7000, 0xFF00⟩, by decide, rfl, EncodingFitsRow.branch_covers 0 off _⟩

theorem EncodingFitsRow.bflag (off : Int) : EncodingFitsRow.Statement (.bflag off) :=
  ⟨⟨"BFLAG", 0x7100, 0xFF00⟩, by decide, rfl, EncodingFitsRow.branch_covers 1 off _⟩

theorem EncodingFitsRow.bnflag (off : Int) : EncodingFitsRow.Statement (.bnflag off) :=
  ⟨⟨"BNFLAG", 0x7200, 0xFF00⟩, by decide, rfl, EncodingFitsRow.branch_covers 2 off _⟩

theorem EncodingFitsRow.bpass (off : Int) : EncodingFitsRow.Statement (.bpass off) :=
  ⟨⟨"BPASS", 0x7300, 0xFF00⟩, by decide, rfl, EncodingFitsRow.branch_covers 3 off _⟩

theorem EncodingFitsRow.bsub (off : Int) : EncodingFitsRow.Statement (.bsub off) :=
  ⟨⟨"BSUB", 0x7400, 0xFF00⟩, by decide, rfl, EncodingFitsRow.branch_covers 4 off _⟩

end Sys2Proof.Laws
end

