-- ==== Sys2Proof/Laws/Step.lean ====
section
/-! SUPPORT. What one step can do, said once: every proof about `step` starts from these lemmas. -/

namespace Sys2Proof.Machine

/-- Every command answers a next state: a fault of the spec is one (log 9), and so is a hold. -/
theorem exec_answers_next (i : Instr) (s : State) : ∃ t, exec i s = .next t := by
  cases i <;> exact ⟨_, rfl⟩

@[simp] theorem onNext_next (f : State → State) (s : State) : onNext f (.next s) = .next (f s) := rfl

theorem onNext_eq_next {f : State → State} {o : Host.Outcome State Fault Refusal} {t : State}
    (h : onNext f o = .next t) : ∃ u, o = .next u ∧ t = f u := by
  cases o with
  | next u => exact ⟨u, rfl, by simpa [onNext] using h.symm⟩
  | fault r => simp [onNext] at h
  | refused r => simp [onNext] at h

/-- When `step` answers a next state: a legal configuration, no fault recorded, and the agent's step followed by the
pass of the slot. -/
theorem step_eq_next {s t : State} (h : step s = .next t) :
    s.cfg.legal = true ∧ s.fault = none ∧ ∃ u, agentStep s = .next u ∧ t = u.passSlot := by
  unfold step at h
  split at h
  · rename_i hl
    cases hf : s.fault with
    | none =>
      rw [hf] at h
      exact ⟨hl, rfl, onNext_eq_next h⟩
    | some f => rw [hf] at h; cases h
  · cases h

/-- What SEQ's turn can do: boot, hold while asleep, a fetch fault, a decode fault, or the decoded command. -/
theorem seqTurn_cases {s u : State} (h : seqTurn s = .next u) :
    (s.booted = false ∧ u = s.boot) ∨
    (s.booted = true ∧ s.sleeping = true ∧ u = s) ∨
    (s.booted = true ∧ s.sleeping = false ∧ fetchWord s = none ∧ u = s.setFault (.fetch s.pc)) ∨
    (∃ w e, s.booted = true ∧ s.sleeping = false ∧ fetchWord s = some w ∧ decode w = .error e ∧
      u = s.setFault (.illegal w)) ∨
    (∃ w i, s.booted = true ∧ s.sleeping = false ∧ fetchWord s = some w ∧ decode w = .ok i ∧ exec i s = .next u) := by
  unfold seqTurn at h
  cases hb : s.booted with
  | false =>
    simp only [hb, Bool.false_eq_true, if_false, Host.Outcome.next.injEq] at h
    exact .inl ⟨rfl, h.symm⟩
  | true =>
    cases hs : s.sleeping with
    | true =>
      simp only [hb, hs, if_true, Host.Outcome.next.injEq] at h
      exact .inr (.inl ⟨rfl, rfl, h.symm⟩)
    | false =>
      simp only [hb, hs, if_true, Bool.false_eq_true, if_false] at h
      unfold seqCommand at h
      cases hw : fetchWord s with
      | none =>
        simp only [hw, Host.Outcome.next.injEq] at h
        exact .inr (.inr (.inl ⟨rfl, rfl, rfl, h.symm⟩))
      | some w =>
        cases hd : decode w with
        | error e =>
          simp only [hw, hd, Host.Outcome.next.injEq] at h
          exact .inr (.inr (.inr (.inl ⟨w, e, rfl, rfl, rfl, hd, h.symm⟩)))
        | ok i =>
          simp only [hw, hd] at h
          exact .inr (.inr (.inr (.inr ⟨w, i, rfl, rfl, rfl, hd, h⟩)))

/-- What an agent's step can be. -/
theorem agentStep_cases {s u : State} (h : agentStep s = .next u) :
    (s.slot.agent = .seq ∧ seqTurn s = .next u) ∨
    (s.slot.agent = .tmr ∧ u = tmrTurn s) ∨
    (∃ src, s.slot.agent = .int src ∧ u = intTurn src s) ∨
    (s.slot.agent = .env ∧ u = envTurn s) := by
  unfold agentStep at h
  cases ha : s.slot.agent with
  | seq => rw [ha] at h; exact .inl ⟨rfl, h⟩
  | tmr =>
    rw [ha] at h
    simp only [Host.Outcome.next.injEq] at h
    exact .inr (.inl ⟨rfl, h.symm⟩)
  | int src =>
    rw [ha] at h
    simp only [Host.Outcome.next.injEq] at h
    exact .inr (.inr (.inl ⟨src, rfl, h.symm⟩))
  | env =>
    rw [ha] at h
    simp only [Host.Outcome.next.injEq] at h
    exact .inr (.inr (.inr ⟨rfl, h.symm⟩))

end Sys2Proof.Machine
end

