-- ==== Sys2Proof/Machine/Assembler.lean ====
section
/-! DEFINITION. The assembler of 30_encoding.md section 5: the pseudo-instructions (R82) as lists of commands, and the
line syntax (R81) as a function from text to command words. No step reads it. Text is a list of characters; the
conventions the spec leaves open are log 19. -/

namespace Sys2Proof.Machine

/-! ### Pseudo-instructions (30_encoding.md R82) -/

/-- The pseudo-instructions of 30_encoding.md R82. -/
inductive Pseudo where
  | startdw
  | await
  | resetph
  | passes
  | subsample
  | acquire
  | cycle
  | main
deriving DecidableEq, Repr

/-- `L: body / BRANCH L` for a branch back to the first command of the body. -/
def loopBack (body : List Instr) (branch : Int → Instr) : List Instr := body ++ [branch (-(body.length : Int))]

/-- `AWAIT` (42_discharge_timer.md R128, R129). -/
def expandAwait : AwaitMode → List Instr
  | .sleep => [.cli, .bnflag 3, .sleepen, .bra (-3), .dtstop, .sei]
  | .poll => [.bflag 0, .dtstop]

/-- `RESETPH` (43_sample_acquirer.md R153). -/
def expandResetph (m : AwaitMode) : List Instr := [.drvl2, .dtstart] ++ expandAwait m

/-- `PASSES` (43_sample_acquirer.md R142). -/
def expandPasses : List Instr :=
  [.cntclr] ++ loopBack [.floatPin .A, .chg .B, .cdelay, .pullup .B, .drvl .B, .drvl .A, .cmprd, .cntinc] .bpass
    ++ [.rawset]

/-- `SUBSAMPLE` (43_sample_acquirer.md R147). -/
def expandSubsample (m : AwaitMode) : List Instr := expandResetph m ++ expandPasses ++ [.accadd]

/-- `ACQUIRE` (43_sample_acquirer.md R149). -/
def expandAcquire (m : AwaitMode) : List Instr := [.accclr] ++ loopBack (expandSubsample m) .bsub ++ [.avg]

/-- `CYCLE` (44_touch_detector.md R168). -/
def expandCycle (m : AwaitMode) : List Instr := expandAcquire m ++ [.push, .scan, .eval, .emitev, .emitdg]

/-- The commands of a pseudo-instruction (30_encoding.md R82). -/
def Pseudo.expand (m : AwaitMode) : Pseudo → List Instr
  | .startdw => [.dtstart]
  | .await => expandAwait m
  | .resetph => expandResetph m
  | .passes => expandPasses
  | .subsample => expandSubsample m
  | .acquire => expandAcquire m
  | .cycle => expandCycle m
  | .main => loopBack (expandCycle m) .bra

/-- The name of a pseudo-instruction in a source line. -/
def Pseudo.name : Pseudo → String
  | .startdw => "STARTDW"
  | .await => "AWAIT"
  | .resetph => "RESETPH"
  | .passes => "PASSES"
  | .subsample => "SUBSAMPLE"
  | .acquire => "ACQUIRE"
  | .cycle => "CYCLE"
  | .main => "MAIN"

/-! ### Lines (30_encoding.md R81) -/

/-- A line's text or one of its tokens. -/
abbrev AsmText := List Char

/-- What a line stands for: finished commands, or a branch to a label (its offset still 0). -/
inductive AsmItem where
  | commands (cs : List Instr)
  | branchTo (branch : Instr) (label : AsmText)
deriving DecidableEq, Repr

/-- A parsed line. -/
structure AsmLine where
  label : Option AsmText
  item : AsmItem
deriving DecidableEq, Repr

/-- "Mnemonics and operands are case-insensitive". -/
def upperChar (c : Char) : Char := if 97 ≤ c.toNat ∧ c.toNat ≤ 122 then Char.ofNat (c.toNat - 32) else c

/-- The text before `;`. -/
def beforeComment (l : AsmText) : AsmText := l.takeWhile (· != ';')

/-- A finished token, if there is one, before the rest. -/
def closeToken (cur : AsmText) (rest : List AsmText) : List AsmText := if cur.isEmpty then rest else cur :: rest

/-- The tokens of a line: blanks separate them, and a `:` ends the token it closes. -/
def tokensFrom : AsmText → AsmText → List AsmText
  | cur, [] => closeToken cur []
  | cur, c :: rest =>
    if c = ' ' ∨ c = '\t' then closeToken cur (tokensFrom [] rest)
    else if c = ':' then (cur ++ [c]) :: tokensFrom [] rest
    else tokensFrom (cur ++ [upperChar c]) rest

/-- The tokens of a source line without its comment. -/
def lineTokens (l : AsmText) : List AsmText := tokensFrom [] (beforeComment l)

/-- The value of a decimal digit. -/
def digitValue (c : Char) : Option Nat := if 48 ≤ c.toNat ∧ c.toNat ≤ 57 then some (c.toNat - 48) else none

/-- An unsigned decimal number, continued from `acc`. -/
def decimalFrom : Nat → AsmText → Option Nat
  | acc, [] => some acc
  | acc, c :: rest => (digitValue c).bind fun d => decimalFrom (acc * 10 + d) rest

/-- An unsigned decimal number of at least one digit. -/
def decimal (t : AsmText) : Option Nat := if t.isEmpty then none else decimalFrom 0 t

/-- `.+n` or `.-n`, relative to the branch's own index. -/
def relativeOffset : AsmText → Option Int
  | '.' :: '+' :: t => (decimal t).map fun n => (n : Int)
  | '.' :: '-' :: t => (decimal t).map fun n => -(n : Int)
  | _ => none

/-- The pin operand `A` or `B`. -/
def pinOperand : AsmText → Option Pin
  | ['A'] => some .A
  | ['B'] => some .B
  | _ => none

/-- The commands of format N and `DRVL2`, which take no operand. -/
def plainCommands : List Instr :=
  [.nop, .cli, .sei, .sleepen, .drvl2, .cmprd, .cdelay, .dtstart, .dtstop, .cntclr, .cntinc, .rawset, .accclr,
    .accadd, .avg, .push, .scan, .eval, .emitev, .emitdg]

/-- The commands with the pin operand `p`. -/
def pinCommands (p : Pin) : List Instr := [.drvl p, .drvh p, .floatPin p, .pullup p, .chg p]

/-- The branches with offset `off`. -/
def branchCommands (off : Int) : List Instr := [.bra off, .bflag off, .bnflag off, .bpass off, .bsub off]

/-- The pseudo-instructions. -/
def pseudoCommands : List Pseudo := [.startdw, .await, .resetph, .passes, .subsample, .acquire, .cycle, .main]

/-- The command of a list with a given mnemonic. -/
def commandNamed (name : AsmText) (cs : List Instr) : Option Instr := cs.find? fun i => i.mnemonic.toList == name

/-- The same branch with another offset. -/
def withOffset (off : Int) (branch : Instr) : Option Instr := commandNamed branch.mnemonic.toList (branchCommands off)

/-- A command without an operand: a plain command or a pseudo-instruction. -/
def parseBare (m : AwaitMode) (name : AsmText) : Option AsmItem :=
  match commandNamed name plainCommands with
  | some i => some (.commands [i])
  | none => (pseudoCommands.find? fun q => q.name.toList == name).map fun q => .commands (q.expand m)

/-- A branch with its operand: a relative offset, checked to lie in −128..127, or else a label. DESIGN CHOICE, safe
(log 19): the spec does not say which text may be a label; every operand that is not `.+n` or `.-n` is read as one, and
is rejected later if no line defines it. -/
def parseBranch (branch : Instr) (operand : AsmText) : Option AsmItem :=
  match relativeOffset operand with
  | some off => if offsetFits off then (withOffset off branch).map fun i => .commands [i] else none
  | none => some (.branchTo branch operand)

/-- A command with an operand. -/
def parseWithOperand (name operand : AsmText) : Option AsmItem :=
  match commandNamed name (branchCommands 0) with
  | some branch => parseBranch branch operand
  | none => (pinOperand operand).bind fun p => (commandNamed name (pinCommands p)).map fun i => .commands [i]

/-- `MNEMONIC [operand]`. -/
def parseItem (m : AwaitMode) : List AsmText → Option AsmItem
  | [name] => parseBare m name
  | [name, operand] => parseWithOperand name operand
  | _ => none

/-- The label of a token that ends with `:`: all of the text before it. DESIGN CHOICE, safe (log 19): any text of at
least one character may be a label. -/
def labelOf (t : AsmText) : Option AsmText := if t.getLast? = some ':' ∧ 1 < t.length then some t.dropLast else none

/-- `[label:] MNEMONIC [operand]`. -/
def parseLine (m : AwaitMode) : List AsmText → Option AsmLine
  | [] => none
  | t :: rest =>
    match labelOf t with
    | some l => (parseItem m rest).map fun i => ⟨some l, i⟩
    | none => (parseItem m (t :: rest)).map fun i => ⟨none, i⟩

/-- The lines of a source text; a line with no token is skipped. -/
def parseLines (m : AwaitMode) : List AsmText → Option (List AsmLine)
  | [] => some []
  | l :: rest =>
    let tokens := lineTokens l
    if tokens.isEmpty then parseLines m rest
    else (parseLine m tokens).bind fun x => (parseLines m rest).map fun xs => x :: xs

/-- How many words a line takes. -/
def AsmItem.size : AsmItem → Nat
  | .commands cs => cs.length
  | .branchTo _ _ => 1

/-- The labels and their indices, from index `at0` on. -/
def labelTable : Nat → List AsmLine → List (AsmText × Nat)
  | _, [] => []
  | at0, x :: rest =>
    match x.label with
    | some l => (l, at0) :: labelTable (at0 + x.item.size) rest
    | none => labelTable (at0 + x.item.size) rest

/-- The commands of one item at index `here`: `off = target − index_of_branch`, rejected outside −128..127. -/
def resolveItem (labels : List (AsmText × Nat)) (here : Nat) : AsmItem → Option (List Instr)
  | .commands cs => some cs
  | .branchTo branch l =>
    (labels.lookup l).bind fun target =>
      let off := (target : Int) - (here : Int)
      if offsetFits off then (withOffset off branch).map fun i => [i] else none

/-- The commands of the lines from index `here` on. -/
def resolveLines (labels : List (AsmText × Nat)) : Nat → List AsmLine → Option (List Instr)
  | _, [] => some []
  | here, x :: rest =>
    (resolveItem labels here x.item).bind fun cs =>
      (resolveLines labels (here + x.item.size) rest).map fun ds => cs ++ ds

/-- No label is defined twice. -/
def labelsDistinct (labels : List (AsmText × Nat)) : Bool := decide (labels.map Prod.fst).Nodup

/-- The commands of a source text placed at index 0x00. -/
def assembleCommands (m : AwaitMode) (lines : List AsmText) : Option (List Instr) :=
  (parseLines m lines).bind fun xs =>
    let labels := labelTable 0 xs
    if labelsDistinct labels then resolveLines labels 0 xs else none

/-- The command words of a source text placed at index 0x00 (30_encoding.md R81). -/
def assemble (m : AwaitMode) (lines : List AsmText) : Option (List Word) :=
  (assembleCommands m lines).map fun cs => cs.map encode

end Sys2Proof.Machine
end

