-- ==== Sys2Proof/Machine/Sink.lean ====
section
/-! DEFINITION. The text the sink renders from the records (44_touch_detector.md R178, R179). It is behaviour of the
software outside the block, given "so that a model of the whole text output can be built"; no step reads it
(log 18). -/

namespace Sys2Proof.Machine

/-- An output byte. -/
abbrev TextByte := BitVec 8

/-- The character of `%5d` at the place of weight `10 ^ place`: a digit, or a space before the first digit
(44_touch_detector.md R178). The value is unsigned decimal. -/
def fieldChar (n place : Nat) : TextByte :=
  if place = 0 ∨ 10 ^ place ≤ n then BitVec.ofNat 8 (0x30 + n / 10 ^ place % 10) else 0x20

/-- A value right-aligned in a field of 5 (44_touch_detector.md R178). -/
def renderField (v : Count) : List TextByte := [4, 3, 2, 1, 0].map (fieldChar v.toNat)

/-- The separator `; `. -/
def fieldSeparator : List TextByte := [0x3B, 0x20]

/-- A newline as the transport sends it: CR LF (44_touch_detector.md R179). -/
def lineEnd : List TextByte := [0x0D, 0x0A]

/-- The line of a record; the other trace events are not handed to the sink (44_touch_detector.md R178, R179). -/
def renderRecord : TraceEvent → List TextByte
  | .touch => [0x42, 0x6C, 0x75, 0x62, 0x62] ++ lineEnd
  | .diag r mn mx d0 d1 d2 => fieldSeparator.intercalate ([r, mn, mx, d0, d1, d2].map renderField) ++ lineEnd
  | .pin _ _ => []
  | .delay _ => []

/-- The bytes the sink has sent for a port trace. -/
def renderTrace (t : List TraceEvent) : List TextByte := t.flatMap renderRecord

end Sys2Proof.Machine
end

