-- ==== Sys2Proof/Tests/Slice0.lean ====
section
/-! SUPPORT. The model's own tests: expected results are from spec/ (95_test_vectors.md, 30_encoding.md), and each
`witness_` theorem shows a state and operands that meet the hypotheses of the obligation it names. -/

namespace Sys2Proof.Tests

open Sys2Proof.Machine

/-! ### Helpers -/

/-- The machine after boot (70_reset_and_hazards.md R212), with two slots laid down. -/
def ready : State := { State.reset with booted := true, ie := true, plan := [Slot.first, Slot.first] }

/-- `ready` with another ROM. -/
def withRom (rom : List Word) : State := ready.setRom rom

/-- `s` in the turn of an agent. -/
def turn (a : Agent) (s : State) : State := s.setSlot { s.slot with agent := a }

/-- `s` with the sink not ready. -/
def sinkFull (s : State) : State := s.setSlot { s.slot with outReady := false }

/-- A projection of the next state. -/
def got {α : Type} (f : State → α) : Host.Outcome State Fault Refusal → Option α
  | .next t => some (f t)
  | .fault _ => none
  | .refused _ => none

/-- The next state, or `s` where there is none. -/
def after (s : State) (o : Host.Outcome State Fault Refusal) : State :=
  match o with
  | .next t => t
  | .fault _ => s
  | .refused _ => s

/-- The reject reason of a word. -/
def rejected (w : Word) : Option DecodeReject :=
  match decode w with
  | .ok _ => none
  | .error e => some e

/-- The command of a word. -/
def command (w : Word) : Option Instr := decodeTableWord 16 w.toNat

/-! ### WellFormed: each check refuses an ill-formed term -/

theorem test_branch_offset_bounds : offsetFits (-128) = true ∧ offsetFits 127 = true := by decide
theorem test_bra_offset_refused : Instr.wellFormed (.bra 128) = false ∧ Instr.wellFormed (.bra (-129)) = false := by
  decide
theorem test_bflag_offset_refused :
    Instr.wellFormed (.bflag 128) = false ∧ Instr.wellFormed (.bflag (-129)) = false := by decide
theorem test_bnflag_offset_refused :
    Instr.wellFormed (.bnflag 128) = false ∧ Instr.wellFormed (.bnflag (-129)) = false := by decide
theorem test_bpass_offset_refused :
    Instr.wellFormed (.bpass 128) = false ∧ Instr.wellFormed (.bpass (-129)) = false := by decide
theorem test_bsub_offset_refused :
    Instr.wellFormed (.bsub 128) = false ∧ Instr.wellFormed (.bsub (-129)) = false := by decide

theorem test_default_config_legal : Config.default.legal = true := by decide
theorem test_window_refused :
    Config.windowLegal { Config.default with window := 0 } = false ∧
    Config.windowLegal { Config.default with window := 65536 } = false ∧
    Config.windowLegal { Config.default with window := 65535 } = true := by decide
theorem test_samples_refused :
    Config.samplesLegal { Config.default with samples := 0 } = false ∧
    Config.samplesLegal { Config.default with samples := 65538 } = false ∧
    Config.samplesLegal { Config.default with samples := 65537 } = true := by decide
/-- The third vector of V-RST: THR_NUM = 101 with THR_DEN = 100. -/
theorem test_threshold_refused :
    Config.thresholdLegal { Config.default with thrNum := 101 } = false ∧
    Config.thresholdLegal { Config.default with thrNum := 0, thrDen := 0 } = false ∧
    Config.thresholdLegal { Config.default with thrDen := 65536 } = false ∧
    Config.thresholdLegal { Config.default with thrNum := 100 } = true := by decide
theorem test_timing_refused :
    Config.timingLegal { Config.default with delayCycles := 6 } = false ∧
    Config.timingLegal { Config.default with dischargeTicks := 0 } = false := by decide
theorem test_rom_refused (c : Config) :
    (c.rom.length = 257 → c.romLegal = false) ∧ (c.rom.length = 256 → c.romLegal = true) :=
  ⟨fun h => by unfold Config.romLegal; rw [h]; rfl, fun h => by unfold Config.romLegal; rw [h]; rfl⟩

/-! ### Decoding: words written out bit by bit from 30_encoding.md R71 to R77 -/

theorem test_decode_nop : command 0b0000000000000000 = some .nop := by decide
theorem test_decode_cli : command 0b0000000100000000 = some .cli := by decide
theorem test_decode_sei : command 0b0000001000000000 = some .sei := by decide
theorem test_decode_sleepen : command 0b0000001100000000 = some .sleepen := by decide
theorem test_decode_drvl : command 0b0001000000000001 = some (.drvl .B) := by decide
theorem test_decode_drvh : command 0b0001000100000000 = some (.drvh .A) := by decide
theorem test_decode_float : command 0b0001001000000001 = some (.floatPin .B) := by decide
theorem test_decode_pullup : command 0b0001001100000000 = some (.pullup .A) := by decide
theorem test_decode_drvl2 : command 0b0001010000000000 = some .drvl2 := by decide
theorem test_decode_chg : command 0b0001010100000001 = some (.chg .B) := by decide
theorem test_decode_cmprd : command 0b0010000000000000 = some .cmprd := by decide
theorem test_decode_cdelay : command 0b0010000100000000 = some .cdelay := by decide
theorem test_decode_dtstart : command 0b0011000000000000 = some .dtstart := by decide
theorem test_decode_dtstop : command 0b0011000100000000 = some .dtstop := by decide
theorem test_decode_cntclr : command 0b0100000000000000 = some .cntclr := by decide
theorem test_decode_cntinc : command 0b0100000100000000 = some .cntinc := by decide
theorem test_decode_rawset : command 0b0100001000000000 = some .rawset := by decide
theorem test_decode_accclr : command 0b0100001100000000 = some .accclr := by decide
theorem test_decode_accadd : command 0b0100010000000000 = some .accadd := by decide
theorem test_decode_avg : command 0b0100010100000000 = some .avg := by decide
theorem test_decode_push : command 0b0101000000000000 = some .push := by decide
theorem test_decode_scan : command 0b0101000100000000 = some .scan := by decide
theorem test_decode_eval : command 0b0101001000000000 = some .eval := by decide
theorem test_decode_emitev : command 0b0110000000000000 = some .emitev := by decide
theorem test_decode_emitdg : command 0b0110000100000000 = some .emitdg := by decide
theorem test_decode_bra : command 0b0111000001111111 = some (.bra 127) := by decide
theorem test_decode_bflag : command 0b0111000100000000 = some (.bflag 0) := by decide
theorem test_decode_bnflag : command 0b0111001000000011 = some (.bnflag 3) := by decide
theorem test_decode_bpass : command 0b0111001110000000 = some (.bpass (-128)) := by decide
theorem test_decode_bsub : command 0b0111010011111111 = some (.bsub (-1)) := by decide

/-- The illegal words of V-ENC whose group is reserved. -/
theorem test_reserved_group :
    [0x8000, 0xFFFF].map rejected = [some .reservedGroup, some .reservedGroup] := by decide
/-- The illegal words of V-ENC whose `op` or `cond` is reserved. -/
theorem test_reserved_op :
    ([0x0400, 0x1600, 0x2200, 0x3200, 0x4600, 0x5300, 0x6200, 0x7500, 0x7FFF].map rejected).all
      (· == some .reservedOp) = true := by decide
/-- The illegal words of V-ENC with a field that must be zero. -/
theorem test_nonzero_field :
    ([0x0001, 0x0380, 0x1002, 0x1401, 0x1502, 0x1503].map rejected).all (· == some .nonzeroField) = true := by decide
/-- Bits at or above `nbits` are zeros. -/
theorem test_table_word_bits : decodeTableWord 8 0xFF00 = some .nop ∧ decodeTableWord 16 0x1501 = some (.chg .B) := by
  decide

/-! ### System commands and branches (V-SEQ) -/

/-- V-SEQ 2: the wrap of `pc`. -/
theorem test_nop_wraps : got State.pc (exec .nop (ready.setPc 0xFF)) = some 0x00 := by decide
/-- V-SEQ 3. -/
theorem test_cli : got (fun t => (t.ie, t.pc)) (exec .cli (ready.setPc 5)) = some (false, 6) := by decide
/-- V-SEQ 4: a pending interrupt is kept. -/
theorem test_cli_keeps_pending :
    got State.tpend (exec .cli { ready with tpend := true, ie := false }) = some true := by decide
/-- V-SEQ 5. -/
theorem test_sei_enables_delivery :
    got (fun t => (t.ie, intEnabled .timer t)) (exec .sei { ready with tpend := true, ie := false }) =
      some (true, true) := by decide
/-- V-SEQ 6. -/
theorem test_sleepen :
    got (fun t => (t.ie, t.sleeping, t.pc, seqEnabled t)) (exec .sleepen { ready with ie := false, pc := 5 }) =
      some (true, true, 6, false) := by decide
/-- V-SEQ 10 and 11: the ends of the offset range. -/
theorem test_bra_range :
    got State.pc (exec (.bra (-128)) (ready.setPc 0x10)) = some 0x90 ∧
    got State.pc (exec (.bra 127) (ready.setPc 0x10)) = some 0x8F := by decide
/-- V-SEQ 8 and 9: the target wraps both ways. -/
theorem test_bra_wraps :
    got State.pc (exec (.bra (-4)) (ready.setPc 0x02)) = some 0xFE ∧
    got State.pc (exec (.bra 1) (ready.setPc 0xFF)) = some 0x00 := by decide
/-- V-SEQ 13. -/
theorem test_bflag_taken : got State.pc (exec (.bflag 0) { ready with dflag := true, pc := 3 }) = some 3 := by decide
/-- V-SEQ 14. -/
theorem test_bflag_falls : got State.pc (exec (.bflag 0) (ready.setPc 3)) = some 4 := by decide
/-- V-SEQ 15. -/
theorem test_bnflag_taken : got State.pc (exec (.bnflag 3) (ready.setPc 4)) = some 7 := by decide
/-- V-SEQ 16. -/
theorem test_bnflag_falls :
    got State.pc (exec (.bnflag 3) { ready with dflag := true, pc := 4 }) = some 5 := by decide
/-- V-SEQ 17 to 20. -/
theorem test_bpass :
    [(5, false), (5, true), (0, false), (0, true)].map (fun x : Count × Bool =>
      got State.pc (exec (.bpass (-8)) { ready with cnt := some x.1, cmp := some x.2, pc := 0x12 })) =
    [some 0x0A, some 0x13, some 0x13, some 0x13] := by decide
/-- V-SEQ 21 and 22: `cnt` is checked first. -/
theorem test_bpass_unwritten :
    got (fun t => (t.fault, t.pc)) (exec (.bpass (-8)) (ready.setPc 0x12)) = some (some (.unwritten .cnt), 0x12) ∧
    got State.fault (exec (.bpass (-8)) (ready.setCnt 5)) = some (some (.unwritten .cmp)) := by decide
/-- V-SEQ 23 to 25. -/
theorem test_bsub :
    [3, 10, 11].map (fun i : SubIndex => got State.pc (exec (.bsub (-20)) { ready with k := some i, pc := 0x15 })) =
    [some 0x01, some 0x16, some 0x16] := by decide
/-- V-SEQ 27. -/
theorem test_bsub_unwritten : got State.fault (exec (.bsub 0) ready) = some (some (.unwritten .k)) := by decide

/-! ### Sense network (V-PIN) -/

/-- V-PIN 2: a write of the same mode still makes an event. -/
theorem test_drvl :
    got (fun t => (t.pinA, t.pinB, t.trace)) (exec (.drvl .A) (ready.setPin .A .driveLow)) =
      some (.driveLow, .hiz, [.pin .A .driveLow]) := by decide
/-- V-PIN 3. -/
theorem test_drvh :
    got (fun t => (t.pinA, t.trace)) (exec (.drvh .A) ready) = some (.driveHigh, [.pin .A .driveHigh]) := by decide
/-- V-PIN 4. -/
theorem test_float :
    got (fun t => (t.pinA, t.trace)) (exec (.floatPin .A) (ready.setPin .A .driveLow)) =
      some (.hiz, [.pin .A .hiz]) := by decide
/-- V-PIN 5. -/
theorem test_pullup :
    got (fun t => (t.pinA, t.pinB, t.trace)) (exec (.pullup .B) (ready.setPin .B .driveHigh)) =
      some (.hiz, .pullup, [.pin .B .pullup]) := by decide
/-- V-PIN 6. -/
theorem test_drvl2 :
    got (fun t => (t.pinA, t.pinB, t.trace)) (exec .drvl2 ready) =
      some (.driveLow, .driveLow, [.pin .A .driveLow, .pin .B .driveLow]) := by decide
/-- V-PIN 7 to 9. -/
theorem test_chg_first_pass :
    got State.trace (exec (.chg .B) (ready.setCnt 0)) = some [.pin .B .driveHigh] ∧
    got (fun t => (t.pinB, t.trace)) (exec (.chg .B) (ready.setCnt 3)) =
      some (.driveHigh, [.pin .B .pullup, .pin .B .driveHigh]) ∧
    got (fun t => (t.fault, t.trace)) (exec (.chg .B) ready) = some (some (.unwritten .cnt), []) := by decide
/-- `ready` under another kick policy. -/
def readyKick (p : KickPolicy) : State := { ready with cfg := { Config.default with kickPolicy := p } }
/-- V-PIN 10 to 13. -/
theorem test_chg_other_policies :
    got State.trace (exec (.chg .B) { readyKick .firstSubsample with k := some 0, cnt := some 7 }) =
      some [.pin .B .driveHigh] ∧
    got State.trace (exec (.chg .B) { readyKick .firstSubsample with k := some 1, cnt := some 0 }) =
      some [.pin .B .pullup, .pin .B .driveHigh] ∧
    got State.fault (exec (.chg .B) (readyKick .firstSubsample)) = some (some (.unwritten .k)) ∧
    got State.trace (exec (.chg .B) (readyKick .alwaysHard)) = some [.pin .B .driveHigh] := by decide
/-- V-PIN 14. -/
theorem test_cdelay_zero : got (fun t => (t.pc, t.trace)) (exec .cdelay ready) = some (1, []) := by decide
/-- V-PIN 15. -/
theorem test_cdelay_cal7 :
    got State.trace (exec .cdelay { ready with cfg := { Config.default with chargeDelay := .cal7 } }) =
      some [.delay 7] := by decide
/-- V-PIN 16 and 17. -/
theorem test_cmprd :
    got State.cmp (exec .cmprd (ready.setSlot ⟨.seq, true, true⟩)) = some (some true) ∧
    got State.cmp (exec .cmprd (ready.setCmp true)) = some (some false) := by decide

/-! ### Discharge timer (V-TMR) -/

/-- The columns of V-TMR. -/
def timerBits (s : State) : List Bool := [s.dflag, s.trun, s.tfired, s.tpend, s.ie]
/-- `ready` with given timer bits. -/
def withTimer (d r f p i : Bool) : State :=
  { ready with dflag := d, trun := r, tfired := f, tpend := p, ie := i }

/-- V-TMR 1 and 7. -/
theorem test_dtstart :
    got timerBits (exec .dtstart (withTimer false false false false true)) = some [true, true, false, false, true] ∧
    got timerBits (exec .dtstart (withTimer true true true true false)) = some [true, true, false, false, false] := by
  decide
/-- V-TMR 6, 8 and 9. -/
theorem test_dtstop :
    got timerBits (exec .dtstop (withTimer false true true false true)) = some [false, false, true, false, true] ∧
    got timerBits (exec .dtstop (withTimer true true false false true)) = some [true, false, false, false, true] ∧
    got timerBits (exec .dtstop (withTimer true true true true false)) = some [true, false, true, true, false] := by
  decide
/-- V-TMR 2 and 3. -/
theorem test_expiry :
    got timerBits (step (turn .tmr (withTimer true true false false true))) = some [true, true, true, true, true] ∧
    tmrEnabled (withTimer true true true true true) = false := by decide
/-- V-TMR 4 and 5, V-INT 1. -/
theorem test_timer_delivery :
    got timerBits (step (turn (.int .timer) (withTimer true true true true true))) =
      some [false, true, true, false, true] ∧
    intEnabled .timer (withTimer true true true true false) = false := by decide
/-- V-INT 2. -/
theorem test_other_delivery :
    got (fun t => (t.opend, t.sleeping, t.ie)) (step (turn (.int .other) { ready with opend := true, sleeping := true })) =
      some (false, false, true) := by decide
/-- V-INT 5: requests merge. -/
theorem test_env_merges :
    got State.opend (step (turn .env ready)) = some true ∧
    got State.opend (step (turn .env (ready.setOpend true))) = some true := by decide

/-! ### Sample acquirer (V-ACQ) -/

/-- V-ACQ 1. -/
theorem test_cntclr : got State.cnt (exec .cntclr ready) = some (some 0) := by decide
/-- V-ACQ 3: the wrap. -/
theorem test_cntinc_wraps : got (fun t => (t.cnt, t.fault)) (exec .cntinc (ready.setCnt 0xFFFF)) = some (some 0, none) := by
  decide
/-- V-ACQ 4. -/
theorem test_cntinc_unwritten : got State.fault (exec .cntinc ready) = some (some (.unwritten .cnt)) := by decide
/-- V-ACQ 5 to 8. -/
theorem test_rawset :
    [0x01F4, 0, 0xFFFF, 1].map (fun n : Count => got State.raw (exec .rawset (ready.setCnt n))) =
    [some (some 500), some (some 0xFFFF), some (some 0xFFFF), some (some 1)] := by decide
/-- V-ACQ 9. -/
theorem test_accclr :
    got (fun t => (t.sum, t.k)) (exec .accclr (ready.setAccumulator 5000 10)) = some (some 0, some 0) := by decide
/-- V-ACQ 10 and 11: the greatest sum that fits. -/
theorem test_accadd :
    got (fun t => (t.sum, t.k)) (exec .accadd { ready with sum := some 1000, raw := some 500, k := some 2 }) =
      some (some 1500, some 3) ∧
    got (fun t => (t.sum, t.k)) (exec .accadd { ready with sum := some 4294901760, raw := some 65535, k := some 65536 }) =
      some (some 4294967295, some 65537) := by decide
/-- V-ACQ 12 to 14. -/
theorem test_accadd_faults :
    got (fun t => (t.fault, t.sum)) (exec .accadd { ready with sum := some 4294967285, raw := some 11, k := some 0 }) =
      some (some (.range .accadd), some 4294967285) ∧
    got State.fault (exec .accadd { ready with sum := some 0, raw := some 1, k := some 131071 }) =
      some (some (.range .accadd)) ∧
    got State.fault (exec .accadd ready) = some (some (.unwritten .raw)) := by decide
/-- `ready` with SAMPLES = n and a sum. -/
def readyAvg (n : Nat) (t : Total) : State :=
  { ready with cfg := { Config.default with samples := n }, sum := some t }
/-- V-ACQ 15, 16, 19 and 20. -/
theorem test_avg :
    [readyAvg 10 5000, readyAvg 10 505, readyAvg 2 65536, readyAvg 65537 4294967295].map
      (fun s => got State.reading (exec .avg s)) =
    [some (some 500), some (some 50), some (some 32768), some (some 65535)] := by decide
/-- V-ACQ 18 and 21. -/
theorem test_avg_faults :
    got State.fault (exec .avg (readyAvg 1 65536)) = some (some (.range .avg)) ∧
    got State.fault (exec .avg ready) = some (some (.unwritten .sum)) := by decide

/-! ### Touch detector (V-DET) -/

/-- `ready` with WINDOW = n. -/
def readyWindow (n : Nat) : State := { ready with cfg := { Config.default with window := n } }
/-- V-DET 1: the pointer wraps. -/
theorem test_push :
    got (fun t => (t.hist.read 9, t.hist.read 0, t.wp)) (exec .push { ready with wp := 9, reading := some 50 }) =
      some (50, 0, 0) := by decide
/-- V-DET 3. -/
theorem test_push_unwritten : got State.fault (exec .push ready) = some (some (.unwritten .reading)) := by decide
/-- V-DET 6: the zeros of warm-up count. -/
theorem test_scan_warm_up :
    got (fun t => (t.mn, t.mx)) (exec .scan { readyWindow 2 with hist := [(0, 3)], wp := 1 }) =
      some (some 0, some 3) := by decide
/-- W1: WINDOW = 10, nine slots of 100 and one of 50. -/
theorem test_scan_full :
    got (fun t => (t.mn, t.mx)) (exec .scan
      { ready with hist := (0, 50) :: [1, 2, 3, 4, 5, 6, 7, 8, 9].map fun i => (i, 100) }) =
      some (some 50, some 100) := by decide
/-- `ready` before an `EVAL`. -/
def readyEval (r hi : Count) (p : Bool) : State := { ready with reading := some r, mx := some hi, inpeak := p }
/-- V-DET 7 to 15. -/
theorem test_eval_idle :
    [(50, 100), (98, 100), (97, 100), (49, 50), (48, 50), (64224, 65535), (64225, 65535), (0, 0), (100, 100)].map
      (fun x : Count × Count => got (fun t => (t.event, t.inpeak)) (exec .eval (readyEval x.1 x.2 false))) =
    [some (some true, true), some (some false, false), some (some true, true), some (some false, false),
      some (some true, true), some (some true, true), some (some false, false), some (some false, false),
      some (some false, false)] := by decide
/-- V-DET 16 and 17. -/
theorem test_eval_in_peak :
    got (fun t => (t.event, t.inpeak)) (exec .eval (readyEval 50 100 true)) = some (some false, true) ∧
    got (fun t => (t.event, t.inpeak)) (exec .eval (readyEval 100 100 true)) = some (some false, false) := by decide
/-- V-DET 20 and 21: `event` is not cleared. -/
theorem test_emitev :
    got (fun t => (t.trace, t.event)) (exec .emitev { ready with event := some true }) = some ([.touch], some true) ∧
    got (fun t => (t.trace, t.pc)) (exec .emitev (sinkFull { ready with event := some false })) = some ([], 1) := by
  decide
/-- V-DET 22. -/
theorem test_emitev_holds :
    got (fun t => (t.trace, t.pc)) (exec .emitev (sinkFull { ready with event := some true })) = some ([], 0) := by decide
/-- `ready` before an `EMITDG`. -/
def readyDiag (r lo hi : Count) : State := { ready with reading := some r, mn := some lo, mx := some hi }
/-- V-DET 23 and 24. -/
theorem test_emitdg :
    got State.trace (exec .emitdg (readyDiag 50 50 100)) = some [.diag 50 50 100 50 0 50] ∧
    got State.trace (exec .emitdg (readyDiag 3 0 3)) = some [.diag 3 0 3 3 3 0] := by decide
/-- V-DET 25 to 27. -/
theorem test_emitdg_faults_and_holds :
    got State.fault (exec .emitdg (readyDiag 5 6 9)) = some (some (.range .emitdg)) ∧
    got State.fault (exec .emitdg { ready with reading := some 5 }) = some (some (.unwritten .mn)) ∧
    got (fun t => (t.trace, t.pc, t.fault)) (exec .emitdg (sinkFull (readyDiag 50 50 100))) = some ([], 0, none) := by
  decide

/-! ### Steps and faults (V-INT), reset (V-RST), ports, sink and assembler -/

/-- V-INT 6. -/
theorem test_step_unwritten :
    got (fun t => (t.fault, t.pc)) (step (withRom [0x5000])) = some (some (.unwritten .reading), 0) := by decide
/-- V-INT 10 to 12. -/
theorem test_step_illegal :
    [0x1401, 0x7500, 0x0001].map (fun w : Word => got State.fault (step (withRom [w]))) =
    [some (some (.illegal 0x1401)), some (some (.illegal 0x7500)), some (some (.illegal 0x0001))] := by decide
/-- V-INT 9: the second step of the ROM [0x0000]. -/
theorem test_step_fetch : got State.fault (step ((withRom [0x0000]).setPc 1)) = some (some (.fetch 1)) := by decide
/-- V-RST: boot sets `ie` and nothing else of the spec's. -/
theorem test_boot_step : got (fun t => (t.ie, t.pc, t.trace)) (step State.reset) = some (true, 0, []) := by decide
/-- V-RST: SAMPLES = 0 has no run. -/
theorem test_refused_configuration :
    got State.pc (step { ready with cfg := { Config.default with samples := 0 } }) = none := by decide
theorem test_reset_history_canonical : State.reset.hist.wf State.reset.cfg.window = true := by decide
/-- The word placed by `withFetchWord` is the next command of the reset machine. -/
theorem test_with_fetch_word :
    got (fun t => (t.trun, t.pc)) (step (State.reset.withFetchWord 16 0x3000)) = some (true, 1) := by decide

/-- `OUT_DATA` of a waiting record, field by field from the top (10_state.md R41). -/
theorem test_out_data :
    portOutKind { readyDiag 50 40 100 with cfg := { Config.default with rom := [0x6100] } } = some 1 ∧
    portOutData { readyDiag 50 40 100 with cfg := { Config.default with rom := [0x6100] } } =
      some 0x00320028_0064003C_000A0032 := by decide
theorem test_pin_mode_codes :
    portPaMode (ready.setPin .A .driveHigh) = 1 ∧ portPbMode (ready.setPin .B .pullup) = 3 := by decide

/-- W9: `    3;     0;     3;     3;     3;     0` and `Blubb`. -/
theorem test_sink_text :
    renderRecord (.diag 3 0 3 3 3 0) =
      ("    3;     0;     3;     3;     3;     0\r\n".toList.map fun c => BitVec.ofNat 8 c.toNat) ∧
    renderRecord .touch = ("Blubb\r\n".toList.map fun c => BitVec.ofNat 8 c.toNat) := by decide
/-- W9: the value is printed unsigned. -/
theorem test_sink_unsigned : renderField 65535 = ("65535".toList.map fun c => BitVec.ofNat 8 c.toNat) := by decide

/-- 30_encoding.md R84: the SLEEP ROM is the expansion of `MAIN`. -/
theorem test_canonical_sleep_rom : (Pseudo.main.expand .sleep).map encode = Config.canonicalSleepRom := by decide
/-- 30_encoding.md R85: so is the POLL ROM. -/
theorem test_canonical_poll_rom : (Pseudo.main.expand .poll).map encode = Config.canonicalPollRom := by decide
/-- Program 2's commands as source text, with a label. -/
theorem test_assemble :
    assemble .sleep (["dtstart", "L0: CLI ; retry", "BNFLAG .+3", "SLEEPEN", "BRA L0", "CHG b"].map String.toList) =
      some [0x3000, 0x0100, 0x7203, 0x0300, 0x70FD, 0x1501] := by decide
/-- 30_encoding.md R81: an offset outside −128..127 is rejected. -/
theorem test_assemble_rejects_offset :
    assemble .sleep [".+128".toList] = none ∧ assemble .sleep ["BRA .+128".toList] = none ∧
    assemble .sleep ["BRA .-128".toList] = some [0x7080] := by decide
/-- Log 19: any text may be a label; one that no line defines is rejected. -/
theorem test_assemble_labels :
    assemble .sleep (["NOP", ".x: BRA .x"].map String.toList) = some [0x0000, 0x7000] ∧
    assemble .sleep ["BRA .x".toList] = none := by decide

/-! ### Witnesses: the hypotheses of each obligation can be met together -/

theorem witness_BootStepEnablesInterrupts :
    State.reset.cfg.legal = true ∧ State.reset.fault = none ∧ State.reset.booted = false ∧
    State.reset.slot.agent = .seq := by decide

theorem witness_StepRunsTheDecodedCommand :
    (withRom [0x73F8]).cfg.legal = true ∧ (withRom [0x73F8]).fault = none ∧ (withRom [0x73F8]).booted = true ∧
    (withRom [0x73F8]).sleeping = false ∧ (withRom [0x73F8]).slot.agent = .seq ∧
    (withRom [0x73F8]).cfg.rom[(withRom [0x73F8]).pc.toNat]? = some 0x73F8 ∧ decode 0x73F8 = .ok (.bpass (-8)) := by
  refine ⟨by decide, by decide, by decide, by decide, by decide, by decide, rfl⟩

/-- The hypotheses on the state that the statements about a SEQ turn share. -/
abbrev SeqMayStep (s : State) : Prop :=
  s.cfg.legal = true ∧ s.fault = none ∧ s.booted = true ∧ s.sleeping = false ∧ s.slot.agent = .seq

/-- `pc` = ROM_SIZE, the least index that is not fetched. -/
theorem witness_FetchAndDecodeFaults_fetch :
    SeqMayStep ((withRom [0x0000]).setPc 1) ∧
    ((withRom [0x0000]).setPc 1).cfg.rom.length = ((withRom [0x0000]).setPc 1).pc.toNat := by decide
theorem witness_FetchAndDecodeFaults_decode :
    SeqMayStep (withRom [0x1401]) ∧ (withRom [0x1401]).cfg.rom[(withRom [0x1401]).pc.toNat]? = some 0x1401 ∧
    decode 0x1401 = .error .nonzeroField := ⟨by decide, by decide, rfl⟩

theorem witness_FaultIsSticky : (ready.setFault (.fetch 0)).fault = some (.fetch 0) := by decide

theorem witness_IllegalConfigurationHasNoRun :
    (readyWindow 65535).cfg.legal = true ∧ (readyWindow 65536).cfg.legal = false := by decide

/-- The reset machine: index 0 is written, index 28, the last, is another one. -/
theorem witness_WithFetchWordRunsTheCommand :
    State.reset.cfg.legal = true ∧ decode 0x70FF = .ok (.bra (-1)) ∧ 28 < State.reset.cfg.rom.length ∧
    28 ≠ State.reset.pc.toNat := ⟨by decide, rfl, by decide, by decide⟩

theorem witness_NopCliSei :
    ready.fault = none ∧ (ready.setOpend true).pending .other = true ∧
    ({ ready with tpend := true } : State).pending .timer = true := by decide
theorem witness_SleepenEnablesAndSuspends :
    ready.fault = none ∧ (ready.setOpend true).pending .other = true ∧
    ({ ready with tpend := true } : State).pending .timer = true := by decide

theorem witness_BpassBranchesOrFaults :
    ready.cnt = none ∧ ((ready.setCnt 5).cnt = some 5 ∧ (ready.setCnt 5).cmp = none) ∧
    (((ready.setCnt 0).setCmp false).cnt = some 0 ∧ ((ready.setCnt 0).setCmp false).cmp = some false) := by decide
theorem witness_BsubBranchesOrFaults :
    ready.k = none ∧ (ready.setAccumulator 0 131071).k = some 131071 := by decide

theorem witness_PinCommandsDriveOnePin : Pin.A ≠ Pin.B := by decide

theorem witness_ChgDrivesHighByPolicy :
    ((readyKick .firstPass).cfg.kickPolicy = .firstPass ∧ (readyKick .firstPass).cnt = none) ∧
    ((readyKick .firstSubsample).cfg.kickPolicy = .firstSubsample ∧ (readyKick .firstSubsample).k = none) ∧
    (((readyKick .firstPass).setCnt 0).cfg.kickPolicy = .firstPass ∧ ((readyKick .firstPass).setCnt 0).cnt = some 0) ∧
    (((readyKick .firstSubsample).setAccumulator 0 1).cfg.kickPolicy = .firstSubsample ∧
      ((readyKick .firstSubsample).setAccumulator 0 1).k = some 1) ∧
    (readyKick .alwaysHard).cfg.kickPolicy = .alwaysHard := by decide

theorem witness_CmprdSamplesTheComparator :
    ready.slot.cmpBelow = false ∧ (ready.setSlot ⟨.seq, true, true⟩).slot.cmpBelow = true := by decide

theorem witness_CdelayTracesTheDelay :
    ready.cfg.chargeDelay = .zero ∧ ({ Config.default with chargeDelay := .cal7 } : Config).chargeDelay = .cal7 ∧
    ({ Config.default with chargeDelay := .cal7 } : Config).legal = true := by decide

theorem witness_OnlyCmprdReadsTheComparator : Instr.nop ≠ Instr.cmprd := by decide

theorem witness_TimerExpiryStep :
    (∀ s, s ∈ [withTimer true true false false true, withTimer true true true true true,
        withTimer true false false false true] →
      (turn .tmr s).cfg.legal = true ∧ (turn .tmr s).fault = none ∧ (turn .tmr s).slot.agent = .tmr) ∧
    ((withTimer true true false false true).trun = true ∧ (withTimer true true false false true).tfired = false) ∧
    (withTimer true true true true true).tfired = true ∧ (withTimer true false false false true).trun = false := by
  decide

/-- A delivery that closes the window. -/
def closing : State := turn (.int .timer) (withTimer true true true true true)
theorem witness_DischargeFlagHasTwoWriters_close :
    step closing = .next (after closing (step closing)) ∧ closing.dflag = true ∧
    (after closing (step closing)).dflag = false := ⟨rfl, by decide, by decide⟩
/-- A `DTSTART` after an expiry. -/
def opening : State := { withRom [0x3000] with tfired := true }
theorem witness_DischargeFlagHasTwoWriters_open :
    step opening = .next (after opening (step opening)) ∧ opening.dflag = false ∧
    (after opening (step opening)).dflag = true := ⟨rfl, by decide, by decide⟩
theorem witness_OneExpiryPerWindow :
    step opening = .next (after opening (step opening)) ∧ opening.tfired = true ∧
    (after opening (step opening)).tfired = false := ⟨rfl, by decide, by decide⟩

theorem witness_CntincWrapsAtSixteenBits : ready.cnt = none ∧ (ready.setCnt 0xFFFF).cnt = some 0xFFFF := by decide
theorem witness_RawsetSaturatesAWrappedCounter : ready.cnt = none ∧ (ready.setCnt 0).cnt = some 0 := by decide

/-- `ready` before an `ACCADD`. -/
def readyAdd (r : Count) (t : Total) (i : SubIndex) : State :=
  { ready with raw := some r, sum := some t, k := some i }
theorem witness_AccaddAccumulatesExactly_faults :
    ready.raw = none ∧ ((ready.setRaw 1).raw ≠ none ∧ (ready.setRaw 1).sum = none) ∧
    (({ ready with raw := some 1, sum := some 0 } : State).raw ≠ none ∧
      ({ ready with raw := some 1, sum := some 0 } : State).sum ≠ none ∧
      ({ ready with raw := some 1, sum := some 0 } : State).k = none) := by decide
/-- One above the bounds, in `sum` and in `k`, and both bounds reached. -/
theorem witness_AccaddAccumulatesExactly_range :
    ((readyAdd 11 4294967285 0).raw = some 11 ∧ (readyAdd 11 4294967285 0).sum = some 4294967285 ∧
      (readyAdd 11 4294967285 0).k = some 0 ∧ (11 : Count).toNat + (4294967285 : Total).toNat = 2 ^ 32) ∧
    ((readyAdd 1 0 131071).k = some 131071 ∧ 2 ^ 17 - 1 < (131071 : SubIndex).toNat + 1) ∧
    ((readyAdd 65535 4294901760 131070).raw = some 65535 ∧ (readyAdd 65535 4294901760 131070).sum = some 4294901760 ∧
      (readyAdd 65535 4294901760 131070).k = some 131070 ∧
      (4294901760 : Total).toNat + (65535 : Count).toNat = 2 ^ 32 - 1 ∧
      (131070 : SubIndex).toNat + 1 = 2 ^ 17 - 1) := by decide

theorem witness_AvgDividesWithTruncation :
    ready.sum = none ∧
    ((readyAvg 1 65536).sum = some 65536 ∧ 0xFFFF < (65536 : Total).toNat / (readyAvg 1 65536).cfg.samples) ∧
    ((readyAvg 1 65535).sum = some 65535 ∧
      (65535 : Total).toNat / (readyAvg 1 65535).cfg.samples = 0xFFFF) := by decide

/-- The greatest acquisition, SAMPLES = 65537, before its last `ACCADD` and after it. -/
def fullAcquisition (t : Total) (i : SubIndex) : State :=
  { readyAdd 65535 t i with cfg := { Config.default with samples := 65537 } }
theorem witness_AcquisitionNeverOverflows_accadd :
    (fullAcquisition 4294901760 65536).cfg.legal = true ∧ (fullAcquisition 4294901760 65536).AccumulatorOk ∧
    (fullAcquisition 4294901760 65536).RawOk ∧
    (65536 : SubIndex).toNat < (fullAcquisition 4294901760 65536).cfg.samples := by decide
theorem witness_AcquisitionNeverOverflows_avg :
    (fullAcquisition 4294967295 65537).cfg.legal = true ∧ (fullAcquisition 4294967295 65537).AccumulatorOk ∧
    (fullAcquisition 4294967295 65537).RawOk ∧
    (65537 : SubIndex).toNat = (fullAcquisition 4294967295 65537).cfg.samples := by decide

/-- A full history of WINDOW = 2 at its last slot, with a reading. -/
def pushing : State := { readyWindow 2 with hist := [(0, 3), (1, 9)], wp := 1, reading := some 2 }
theorem witness_PushOverwritesTheOldestSlot :
    ready.reading = none ∧ (pushing.reading = some 2 ∧ pushing.HistoryOk) := by decide
/-- `pushing` after its `PUSH`. -/
def pushed : State := after pushing (exec .push pushing)
theorem witness_PushShiftsTheWindow :
    pushing.HistoryOk ∧ pushing.reading = some 2 ∧ exec .push pushing = .next pushed :=
  ⟨by decide, by decide, rfl⟩

/-- A machine in whose ring one reading was pushed since reset. -/
def onePush : State := after State.reset (exec .push (State.reset.setReading 7))
theorem witness_WindowHoldsTheMostRecentReadings :
    Config.default.legal = true ∧ PushedFrom (State.resetWith Config.default Slot.first []) ([] ++ [7]) onePush :=
  ⟨by decide, .push (u := State.reset.setReading 7) .start rfl rfl rfl rfl rfl⟩

theorem witness_ScanFindsTheExtremes : (readyWindow 1).cfg.window = 1 := by decide
theorem witness_ScanAfterPushBoundsTheReading :
    pushing.HistoryOk ∧ pushing.reading = some 2 ∧ exec .push pushing = .next pushed ∧
    exec .scan pushed = .next (after pushed (exec .scan pushed)) ∧
    (after pushed (exec .scan pushed)).slot.outReady = true := ⟨by decide, by decide, rfl, rfl, by decide⟩

theorem witness_EvalAppliesTheTransitionRule :
    ready.reading = none ∧ ((ready.setReading 5).reading ≠ none ∧ (ready.setReading 5).mx = none) ∧
    ((readyEval 98 100 false).reading = some 98 ∧ (readyEval 98 100 false).mx = some 100 ∧
      (98 : Count).toNat * (readyEval 98 100 false).cfg.thrDen =
        (100 : Count).toNat * (readyEval 98 100 false).cfg.thrNum) := by decide

/-- A machine right after an onset. -/
def onset : State := after ready (exec .eval (readyEval 50 100 false))
theorem witness_OnsetNeedsADip :
    (readyEval 50 100 false).cfg.legal = true ∧ (readyEval 50 100 false).reading = some 50 ∧
    (readyEval 50 100 false).mx = some 100 ∧ exec .eval (readyEval 50 100 false) = .next onset ∧
    onset.inpeak = true := ⟨by decide, by decide, by decide, rfl, by decide⟩
theorem witness_OnsetsAreEdges :
    exec .eval (readyEval 50 100 false) = .next onset ∧ (readyEval 50 100 false).fault = none ∧ onset.fault = none ∧
    onset.event = some true ∧ onset.inpeak = onset.inpeak ∧
    exec .eval onset = .next (after onset (exec .eval onset)) ∧ (after onset (exec .eval onset)).fault = none :=
  ⟨rfl, by decide, by decide, by decide, rfl, rfl, by decide⟩

/-- `pushing` with a ROM that pushes. -/
def pushStep : State := pushing.setRom [0x5000]
theorem witness_OnlyPushWritesTheHistory :
    step pushStep = .next (after pushStep (step pushStep)) ∧ RunsCommand pushStep .push ∧
    (after pushStep (step pushStep)).hist ≠ pushStep.hist :=
  ⟨rfl, ⟨by decide, by decide, by decide, by decide⟩, by decide⟩

theorem witness_EmitevHandsOverTheTouch :
    ready.event = none ∧ (ready.setDetector false false).event = some false ∧
    ((ready.setDetector true true).event = some true ∧ (ready.setDetector true true).slot.outReady = true) ∧
    ((sinkFull (ready.setDetector true true)).event = some true ∧
      (sinkFull (ready.setDetector true true)).slot.outReady = false) := by decide

/-- What the register clauses of the two `EMITDG` statements ask of a state: reading unwritten; mn unwritten; mx
unwritten; a reading below mn; and a reading at both bounds. -/
abbrev EmitdgClauses (f : State → State) : Prop :=
  (f ready).reading = none ∧ ((f (ready.setReading 5)).reading ≠ none ∧ (f (ready.setReading 5)).mn = none) ∧
  ((f { ready with reading := some 5, mn := some 5 }).reading ≠ none ∧
    (f { ready with reading := some 5, mn := some 5 }).mn ≠ none ∧
    (f { ready with reading := some 5, mn := some 5 }).mx = none) ∧
  ((f (readyDiag 5 6 9)).reading = some 5 ∧ (f (readyDiag 5 6 9)).mn = some 6 ∧ (f (readyDiag 5 6 9)).mx = some 9) ∧
  ((f (readyDiag 7 7 7)).reading = some 7 ∧ (f (readyDiag 7 7 7)).mn = some 7 ∧ (f (readyDiag 7 7 7)).mx = some 7)
theorem witness_EmitdgHandsOverTheDiagnosis :
    EmitdgClauses id ∧ (readyDiag 7 7 7).slot.outReady = true ∧ ready.slot.outReady = true ∧
    (sinkFull (readyDiag 7 7 7)).slot.outReady = false := by decide
theorem witness_EmitdgChecksBeforeItHolds :
    EmitdgClauses id ∧ EmitdgClauses sinkFull ∧ (sinkFull ready).slot.outReady = false := by decide

theorem witness_OutputPortsShowTheState :
    (portOutValid ((ready.setDetector true true).setRom [0x6000]) = true ∧
      commandAtPc ((ready.setDetector true true).setRom [0x6000]) = some .emitev) ∧
    (portOutValid ((readyDiag 50 40 100).setRom [0x6100]) = true ∧
      commandAtPc ((readyDiag 50 40 100).setRom [0x6100]) = some .emitdg) ∧
    (portOutValid ((readyDiag 7 7 7).setRom [0x6100]) = true ∧
      portOutValid (sinkFull ((readyDiag 7 7 7).setRom [0x6100])) = true) ∧
    (portOutValid ((ready.setDetector false false).setRom [0x6000]) = false ∧
      portOutValid ((readyDiag 5 6 9).setRom [0x6100]) = false) ∧
    (portTmrStart (withRom [0x3000]) = true ∧ portTmrStart (turn .tmr (withRom [0x3000])) = false) := by decide

theorem witness_InterruptDelivery :
    (∀ src, (turn (.int src) ready).cfg.legal = true ∧ (turn (.int src) ready).fault = none ∧
      (turn (.int src) ready).slot.agent = .int src ∧ ready.pending src = false) ∧
    ((withTimer true true true true true).ie = true ∧ (withTimer true true true true true).tpend = true) ∧
    ((ready.setOpend true).ie = true ∧ (ready.setOpend true).opend = true) ∧
    ((withTimer true true true true false).ie = false ∧ (withTimer true true true true false).tpend = true) := by
  refine ⟨fun src => ?_, by decide, by decide, by decide⟩
  cases src <;> decide

theorem witness_EnvironmentRequestMerges :
    (turn .env ready).cfg.legal = true ∧ (turn .env ready).fault = none ∧ (turn .env ready).slot.agent = .env ∧
    (turn .env (ready.setOpend true)).opend = true := by decide

/-- A suspended machine with the expiry pending. -/
def suspended : State := { withTimer true true true true true with sleeping := true }
theorem witness_OnlyADeliveryWakesSeq_holds :
    (turn .seq suspended).booted = true ∧ (turn .seq suspended).sleeping = true ∧
    (turn .seq suspended).slot.agent = .seq ∧
    step (turn .seq suspended) = .next (after suspended (step (turn .seq suspended))) :=
  ⟨by decide, by decide, by decide, rfl⟩
theorem witness_OnlyADeliveryWakesSeq_wakes :
    (turn (.int .timer) suspended).booted = true ∧ (turn (.int .timer) suspended).sleeping = true ∧
    step (turn (.int .timer) suspended) = .next (after suspended (step (turn (.int .timer) suspended))) ∧
    (after suspended (step (turn (.int .timer) suspended))).sleeping = false :=
  ⟨by decide, by decide, rfl, by decide⟩

/-- Asleep; held by the sink; at a command; and at a fetch that faults. -/
theorem witness_SeqHoldsWhereItIsNotEnabled :
    (∀ s, s ∈ [suspended, sinkFull ((ready.setDetector true true).setRom [0x6000]), withRom [0x0000]] →
      s.cfg.legal = true ∧ s.fault = none ∧ s.booted = true ∧ s.slot.agent = .seq) ∧
    seqEnabled suspended = false ∧ seqEnabled (sinkFull ((ready.setDetector true true).setRom [0x6000])) = false ∧
    seqEnabled (withRom [0x0000]) = true ∧ commandAtPc (withRom [0x0000]) = some .nop := by decide

theorem witness_CommandFaultsArePrecise :
    ready.fault = none ∧ exec .push ready = .next (ready.setFault (.unwritten .reading)) ∧
    (ready.setFault (.unwritten .reading)).fault = some (.unwritten .reading) := ⟨by decide, rfl, by decide⟩
/-- One fault of each kind that a command can raise. -/
theorem witness_EachFaultHasItsRaisers :
    got State.fault (exec .scan ready) = some none ∧
    got State.fault (exec .eval ready) = some (some (.unwritten .reading)) ∧
    got State.fault (exec .accadd (readyAdd 11 4294967285 0)) = some (some (.range .accadd)) ∧
    got State.fault (exec .avg (readyAvg 1 65536)) = some (some (.range .avg)) ∧
    got State.fault (exec .emitdg (readyDiag 5 6 9)) = some (some (.range .emitdg)) := by decide

theorem witness_ConfigurationNeverChanges : Reaches ready (after ready (step ready)) := .more .here rfl

theorem witness_TraceOnlyGrows :
    step (withRom [0x1400]) = .next (after ready (step (withRom [0x1400]))) ∧
    (after ready (step (withRom [0x1400]))).trace = [] ++ [.pin .A .driveLow, .pin .B .driveLow] :=
  ⟨rfl, by decide⟩

theorem witness_ResetMeetsTheInvariant : Config.default.legal = true := by decide
theorem test_ready_meets_the_invariant : ready.Inv where
  config := by decide
  history := by decide
  timer := by decide
  sleep := by decide
  boot := by decide
  raw := by decide
  accumulator := by decide
  detector := by decide
theorem witness_StepKeepsTheInvariant : ready.Inv ∧ step ready = .next (after ready (step ready)) :=
  ⟨test_ready_meets_the_invariant, rfl⟩

theorem witness_DecodeOfEncode : Instr.wellFormed (.bpass (-128)) = true ∧ Instr.wellFormed (.bra 127) = true := by
  decide
theorem witness_EncodeOfDecode : decode 0x7380 = .ok (.bpass (-128)) := rfl
theorem witness_DecodeFollowsTheTable :
    (⟨"CHG", 0x1500, 0xFFFE⟩ ∈ opcodeTable ∧ OpcodeRow.covers ⟨"CHG", 0x1500, 0xFFFE⟩ 0x1501 = true ∧
      pinOperandOf (.chg .B) = some .B) ∧
    offsetOperandOf (.bra (-1)) = some (-1) ∧
    opcodeTable.all (fun r => !r.covers 0x1502) = true := by decide
theorem witness_NoWordMatchesTwoRows :
    ⟨"BRA", 0x7000, 0xFF00⟩ ∈ opcodeTable ∧ OpcodeRow.covers ⟨"BRA", 0x7000, 0xFF00⟩ 0x70FF = true := by decide

/-! ### Witness of the liveness statement: a run that sleeps, expires, wakes and then spins with `ie = 0` -/

/-- Asleep in an open window, the countdown running; the expiry, the delivery and SEQ's turn are laid down. -/
def asleep : State :=
  { withRom [0x0100, 0x7000] with
    dflag := true, trun := true, sleeping := true, slot := ⟨.tmr, false, true⟩,
    plan := [⟨.int .timer, false, true⟩, ⟨.seq, false, true⟩] }

/-- The run from `asleep`: every later slot is free. -/
def asleepRun : Nat → State
  | 0 => asleep
  | n + 1 => after (asleepRun n) (step (asleepRun n))

/-- Spinning at `BRA .+0` with interrupts disabled and the expiry fired. -/
structure Spinning (s : State) : Prop where
  cfg : s.cfg = asleep.cfg
  fault : s.fault = none
  booted : s.booted = true
  awake : s.sleeping = false
  pc : s.pc = 1
  ie : s.ie = false
  tfired : s.tfired = true

theorem spinning_step (s : State) (h : Spinning s) : ∃ t, step s = .next t ∧ Spinning t := by
  have hl : s.cfg.legal = true := by rw [h.cfg]; decide
  suffices hs : ∃ u, agentStep s = .next u ∧ Spinning u by
    obtain ⟨u, hu, hp⟩ := hs
    refine ⟨u.passSlot, ?_, hp.1, hp.2, hp.3, hp.4, hp.5, hp.6, hp.7⟩
    unfold step
    rw [if_pos hl, h.fault, hu]
    rfl
  unfold agentStep
  cases s.slot.agent with
  | seq =>
    refine ⟨s.setPc 1, ?_, h.1, h.2, h.3, h.4, rfl, h.6, h.7⟩
    have hw : fetchWord s = some 0x7000 := by
      unfold fetchWord
      rw [h.cfg, h.pc]
      rfl
    have hd : decode 0x7000 = .ok (.bra 0) := rfl
    simp only [seqTurn, h.booted, h.awake, if_true, Bool.false_eq_true, if_false, seqCommand, hw, hd]
    show Host.Outcome.next (s.setPc (branchTarget s.pc 0)) = _
    rw [h.pc]
    rfl
  | tmr =>
    refine ⟨s, ?_, h⟩
    simp only [tmrTurn, tmrEnabled, h.tfired, Bool.not_true, Bool.and_false, Bool.false_eq_true, if_false]
  | int src =>
    refine ⟨s, ?_, h⟩
    simp only [intTurn, intEnabled, h.ie, Bool.false_and, Bool.and_false, Bool.false_eq_true, if_false]
  | env => exact ⟨s.setOpend true, rfl, h.1, h.2, h.3, h.4, h.5, h.6, h.7⟩

theorem asleepRun_spins (n : Nat) : Spinning (asleepRun (n + 3)) := by
  induction n with
  | zero => exact ⟨by decide, by decide, by decide, by decide, by decide, by decide, by decide⟩
  | succ n ih =>
    obtain ⟨t, ht, hp⟩ := spinning_step _ ih
    show Spinning (after _ (step (asleepRun (n + 3))))
    rw [ht]
    exact hp

theorem witness_ASuspendedSeqIsWoken_run : IsRun asleepRun ∧ TmrFair asleepRun ∧ IntFair asleepRun := by
  refine ⟨fun n => ?_, fun n h => ?_, fun src n h => ?_⟩
  · match n with
    | 0 => rfl
    | 1 => rfl
    | 2 => rfl
    | n + 3 =>
      obtain ⟨t, ht, _⟩ := spinning_step _ (asleepRun_spins n)
      show step (asleepRun (n + 3)) = .next (after _ (step (asleepRun (n + 3))))
      rw [ht]
      rfl
  · have hn := (tmrEnabled_iff _).mp (h (n + 3) (by omega))
    rw [(asleepRun_spins n).tfired] at hn
    exact absurd hn.2.2 (by decide)
  · have hn := (intEnabled_iff _ _).mp (h (n + 3) (by omega))
    rw [(asleepRun_spins n).ie] at hn
    exact absurd hn.2.1 (by decide)

/-- The countdown runs at the run's start, and the expiry is pending one step later. -/
theorem witness_ASuspendedSeqIsWoken_states :
    ((asleepRun 0).TimerOk ∧ (asleepRun 0).SleepOk ∧ (asleepRun 0).sleeping = true ∧ (asleepRun 0).dflag = true ∧
      (asleepRun 0).trun = true) ∧
    ((asleepRun 1).TimerOk ∧ (asleepRun 1).SleepOk ∧ (asleepRun 1).sleeping = true ∧ (asleepRun 1).dflag = true ∧
      (asleepRun 1).tpend = true) := by decide

end Sys2Proof.Tests
end

section
/-! PROOF. The reset state (10_state.md R43), the fault register (R38) and the invariant after reset. -/

namespace Sys2Proof.Machine

/-- A legal window has a slot: what keeps `wp` inside it at reset (00_scope.md R7, P0). -/
theorem window_pos_of_legal {c : Config} (h : c.legal = true) : 0 < c.window := by
  simp only [Config.legal, Config.windowLegal, Bool.and_eq_true, decide_eq_true_eq] at h
  omega

/-- Settles O1, row by row of the reset table. -/
theorem resetTable : Obligations.ResetTable := by
  have pins : ∀ p, State.reset.pin p = .hiz := fun p => by cases p <;> rfl
  have history : ∀ i, State.reset.hist.read i = 0 := Memory.read_nil
  exact ⟨rfl, pins, ⟨rfl, rfl, rfl, rfl, rfl, rfl, rfl, rfl, rfl⟩, history, rfl, rfl, rfl, rfl,
    ⟨rfl, rfl, rfl, rfl, rfl⟩, rfl, rfl⟩

/-- Settles O5: a step that answers a next state starts with no fault recorded. -/
theorem faultIsSticky : Obligations.FaultIsSticky := by
  refine ⟨rfl, fun s t f hf hstep => ?_⟩
  obtain ⟨-, hnone, -⟩ := step_eq_next hstep
  rw [hf] at hnone
  cases hnone

/-- Settles O52: only the configuration and the window's size need an argument, every other clause reads reset
values. -/
theorem resetMeetsTheInvariant : Obligations.ResetMeetsTheInvariant := by
  intro c x later hc
  exact {
    config := hc
    history := ⟨window_pos_of_legal hc, Memory.reset_wf c.window⟩
    timer := ⟨nofun, nofun, nofun⟩
    sleep := nofun
    boot := fun _ => ⟨rfl, rfl, rfl, rfl, rfl, rfl⟩
    raw := nofun
    accumulator := rfl
    detector := ⟨rfl, nofun, fun _ => rfl⟩ }

end Sys2Proof.Machine
end

section
/-! PROOF. The comparator answer is read by `CMPRD` alone (10_state.md R41, 41_sense_network.md R122): every operation
the other commands are made of commutes with a change of the answer. -/

namespace Sys2Proof.Machine

/-- The machine under another comparator answer. -/
def State.setCmpBelow (s : State) (b : Bool) : State := { s with slot := { s.slot with cmpBelow := b } }

@[simp] theorem State.setCmpBelow_cfg (s : State) (b : Bool) : (s.setCmpBelow b).cfg = s.cfg := rfl

@[simp] theorem State.setCmpBelow_outReady (s : State) (b : Bool) :
    (s.setCmpBelow b).slot.outReady = s.slot.outReady := rfl

/-- A checked read commutes with the change of the answer if its continuation does. -/
theorem withWritten_setCmpBelow {α : Type} {r : RegName} {v : Option α} {s : State} {b : Bool} {go go' : α → State}
    (hgo : ∀ x, go' x = (go x).setCmpBelow b) :
    withWritten r v (s.setCmpBelow b) go' = (withWritten r v s go).setCmpBelow b := by
  cases v with
  | none => rfl
  | some x => exact hgo x

theorem branchIf_setCmpBelow (taken : Bool) (off : Int) (s : State) (b : Bool) :
    branchIf taken off (s.setCmpBelow b) = (branchIf taken off s).setCmpBelow b := by
  cases taken <;> rfl

/-- The handshake reads OUT_READY, the other level of the slot. -/
theorem emitRecord_setCmpBelow (e : TraceEvent) (s : State) (b : Bool) :
    emitRecord e (s.setCmpBelow b) = (emitRecord e s).setCmpBelow b := by
  unfold emitRecord
  rw [State.setCmpBelow_outReady]
  cases s.slot.outReady <;> rfl

theorem chargeDrive_setCmpBelow (hard : Bool) (p : Pin) (s : State) (b : Bool) :
    chargeDrive hard p (s.setCmpBelow b) = (chargeDrive hard p s).setCmpBelow b := by
  cases hard <;> rfl

theorem withKickRegister_setCmpBelow {s go go' : State} {b : Bool} (hgo : go' = go.setCmpBelow b) :
    withKickRegister (s.setCmpBelow b) go' = (withKickRegister s go).setCmpBelow b := by
  subst hgo
  unfold withKickRegister
  rw [State.setCmpBelow_cfg]
  cases s.cfg.kickPolicy with
  | firstPass => exact withWritten_setCmpBelow fun _ => rfl
  | firstSubsample => exact withWritten_setCmpBelow fun _ => rfl
  | alwaysHard => rfl

theorem chargeDelayEvent_setCmpBelow (s : State) (b : Bool) :
    chargeDelayEvent (s.setCmpBelow b) = (chargeDelayEvent s).setCmpBelow b := by
  unfold chargeDelayEvent
  rw [State.setCmpBelow_cfg]
  cases s.cfg.chargeDelay <;> rfl

/-- A range check commutes with the change of the answer if the result of passing it does. -/
theorem ite_raiseFault_setCmpBelow {c : Prop} [Decidable c] (f : FaultRecord) {s t t' : State} {b : Bool}
    (ht : t' = t.setCmpBelow b) :
    (if c then raiseFault f (s.setCmpBelow b) else t') = (if c then raiseFault f s else t).setCmpBelow b := by
  subst ht
  split <;> rfl

/-- Every command but `CMPRD` commutes with the change of the comparator answer: by the operation that reads the
state, and by computation for a command that only writes. -/
theorem exec_setCmpBelow {i : Instr} (hi : i ≠ .cmprd) (s : State) (b : Bool) :
    exec i (s.setCmpBelow b) = onNext (State.setCmpBelow · b) (exec i s) := by
  cases i with
  | cmprd => exact absurd rfl hi
  | chg p =>
    exact congrArg Host.Outcome.next
      (withKickRegister_setCmpBelow (congrArg advancePc (chargeDrive_setCmpBelow _ p s b)))
  | cdelay => exact congrArg (Host.Outcome.next ∘ advancePc) (chargeDelayEvent_setCmpBelow s b)
  | cntinc | rawset | push => exact congrArg Host.Outcome.next (withWritten_setCmpBelow fun _ => rfl)
  | eval => exact congrArg Host.Outcome.next (withWritten_setCmpBelow fun _ => withWritten_setCmpBelow fun _ => rfl)
  | accadd =>
    refine congrArg Host.Outcome.next (withWritten_setCmpBelow fun r => withWritten_setCmpBelow fun t =>
      withWritten_setCmpBelow fun n => ?_)
    exact ite_raiseFault_setCmpBelow (c := accumulatorOverflows t r n = true) (.range .accadd) rfl
  | avg =>
    refine congrArg Host.Outcome.next (withWritten_setCmpBelow fun t => ?_)
    exact ite_raiseFault_setCmpBelow (c := 0xFFFF < t.toNat / s.cfg.samples) (.range .avg) rfl
  | emitev =>
    refine congrArg Host.Outcome.next (withWritten_setCmpBelow fun e => ?_)
    cases e with
    | true => exact emitRecord_setCmpBelow .touch s b
    | false => rfl
  | emitdg =>
    refine congrArg Host.Outcome.next (withWritten_setCmpBelow fun r => withWritten_setCmpBelow fun lo =>
      withWritten_setCmpBelow fun hi => ?_)
    cases diagnosticInRange r lo hi with
    | true => exact emitRecord_setCmpBelow (diagRecord r lo hi) s b
    | false => rfl
  | bra off | bflag off | bnflag off => exact congrArg Host.Outcome.next (branchIf_setCmpBelow _ off s b)
  | bpass off =>
    exact congrArg Host.Outcome.next (withWritten_setCmpBelow fun _ => withWritten_setCmpBelow fun _ =>
      branchIf_setCmpBelow _ off s b)
  | bsub off =>
    exact congrArg Host.Outcome.next (withWritten_setCmpBelow fun _ => branchIf_setCmpBelow _ off s b)
  | _ => rfl

/-- Settles O18: the change of the answer passes through every command but `CMPRD`. -/
theorem onlyCmprdReadsTheComparator : Obligations.OnlyCmprdReadsTheComparator :=
  fun _ s b hi => exec_setCmpBelow hi s b

end Sys2Proof.Machine
end

section
/-! PROOF. The output ports of 10_state.md R41: when SEQ has a command step, which record the command at `pc` waits
with, and the fields of `OUT_DATA`. -/

namespace Sys2Proof.Machine

theorem seqEnabled_iff (s : State) :
    seqEnabled s = true ↔ s.booted = true ∧ s.fault = none ∧ s.sleeping = false ∧
      (s.slot.outReady = true ∨ recordAtPc s = none) := by
  simp [seqEnabled]

theorem touchRecord_isSome_iff (event : Option Bool) : (touchRecord event).isSome = true ↔ event = some true := by
  unfold touchRecord
  split <;> simp [*]

theorem diagnosticInRange_iff (r lo hi : Count) :
    diagnosticInRange r lo hi = true ↔ lo.toNat ≤ r.toNat ∧ r.toNat ≤ hi.toNat := by
  simp [diagnosticInRange]

/-! ### The record at `pc` -/

theorem recordAtPc_of_emitev {s : State} (h : commandAtPc s = some .emitev) : recordAtPc s = touchRecord s.event := by
  unfold recordAtPc
  rw [h]

/-- At `EMITDG` a record waits exactly when the operands are written and in range (44_touch_detector.md R167). -/
theorem recordAtPc_eq_some_iff_of_emitdg {s : State} (h : commandAtPc s = some .emitdg) (e : TraceEvent) :
    recordAtPc s = some e ↔ ∃ r lo hi, s.reading = some r ∧ s.mn = some lo ∧ s.mx = some hi ∧
      (lo.toNat ≤ r.toNat ∧ r.toNat ≤ hi.toNat) ∧ diagRecord r lo hi = e := by
  unfold recordAtPc
  rw [h]
  cases s.reading <;> cases s.mn <;> cases s.mx <;> simp [diagnosticInRange_iff]

/-- Only the two emitting commands have a record. -/
theorem emitting_of_recordAtPc_isSome {s : State} (h : (recordAtPc s).isSome = true) :
    commandAtPc s = some .emitev ∨ commandAtPc s = some .emitdg := by
  unfold recordAtPc at h
  split at h
  · exact .inl ‹_›
  · exact .inr ‹_›
  · cases h

/-! ### The waiting record -/

theorem waitingRecord_of_running {s : State} (hb : s.booted = true) (hs : s.sleeping = false) (hf : s.fault = none) :
    waitingRecord s = recordAtPc s := by
  simp [waitingRecord, hb, hs, hf]

/-- A record waits only in a booted, awake, unfaulted machine. -/
theorem running_of_portOutValid {s : State} (h : portOutValid s = true) :
    s.booted = true ∧ s.sleeping = false ∧ s.fault = none := by
  unfold portOutValid waitingRecord at h
  split at h
  · rename_i hrun
    simp only [Bool.and_eq_true, Option.isNone_iff_eq_none, Bool.not_eq_true'] at hrun
    obtain ⟨hb, hf, hs⟩ := hrun
    exact ⟨hb, hs, hf⟩
  · cases h

theorem emitting_of_portOutValid {s : State} (h : portOutValid s = true) :
    commandAtPc s = some .emitev ∨ commandAtPc s = some .emitdg := by
  obtain ⟨hb, hs, hf⟩ := running_of_portOutValid h
  rw [portOutValid, waitingRecord_of_running hb hs hf] at h
  exact emitting_of_recordAtPc_isSome h

/-- `TMR_START` is asserted exactly where the step runs `DTSTART`: it is not an emitting command, so no sink holds
it. -/
theorem portTmrStart_iff (s : State) :
    portTmrStart s = true ↔ s.fault = none ∧ RunsCommand s .dtstart := by
  have hrecord : commandAtPc s = some .dtstart → recordAtPc s = none := fun h => by
    unfold recordAtPc
    rw [h]
  simp only [portTmrStart, Bool.and_eq_true, beq_iff_eq, seqEnabled_iff, RunsCommand]
  constructor
  · rintro ⟨ha, ⟨hb, hf, hs, -⟩, hc⟩
    exact ⟨hf, ha, hb, hs, hc⟩
  · rintro ⟨hf, ha, hb, hs, hc⟩
    exact ⟨ha, ⟨hb, hf, hs, .inr (hrecord hc)⟩, hc⟩

theorem portOutValid_iff_of_emitev {s : State} (hb : s.booted = true) (hs : s.sleeping = false) (hf : s.fault = none)
    (hc : commandAtPc s = some .emitev) : portOutValid s = true ↔ s.event = some true := by
  rw [portOutValid, waitingRecord_of_running hb hs hf, recordAtPc_of_emitev hc, touchRecord_isSome_iff]

theorem portOutValid_iff_of_emitdg {s : State} (hb : s.booted = true) (hs : s.sleeping = false) (hf : s.fault = none)
    (hc : commandAtPc s = some .emitdg) :
    portOutValid s = true ↔ ∃ r lo hi, s.reading = some r ∧ s.mn = some lo ∧ s.mx = some hi ∧
      lo.toNat ≤ r.toNat ∧ r.toNat ≤ hi.toNat := by
  rw [portOutValid, waitingRecord_of_running hb hs hf, Option.isSome_iff_exists]
  constructor
  · rintro ⟨e, he⟩
    obtain ⟨r, lo, hi, hr, hlo, hhi, hrange, -⟩ := (recordAtPc_eq_some_iff_of_emitdg hc e).mp he
    exact ⟨r, lo, hi, hr, hlo, hhi, hrange⟩
  · rintro ⟨r, lo, hi, hr, hlo, hhi, hrange⟩
    exact ⟨_, (recordAtPc_eq_some_iff_of_emitdg hc _).mpr ⟨r, lo, hi, hr, hlo, hhi, hrange, rfl⟩⟩

theorem waitingRecord_touch {s : State} (h : portOutValid s = true) (hc : commandAtPc s = some .emitev) :
    waitingRecord s = some .touch := by
  obtain ⟨hb, hs, hf⟩ := running_of_portOutValid h
  have hevent := (portOutValid_iff_of_emitev hb hs hf hc).mp h
  rw [waitingRecord_of_running hb hs hf, recordAtPc_of_emitev hc, hevent]
  rfl

theorem waitingRecord_diag {s : State} {r lo hi : Count} (h : portOutValid s = true)
    (hc : commandAtPc s = some .emitdg) (hr : s.reading = some r) (hlo : s.mn = some lo) (hhi : s.mx = some hi) :
    waitingRecord s = some (diagRecord r lo hi) := by
  obtain ⟨hb, hs, hf⟩ := running_of_portOutValid h
  obtain ⟨r', lo', hi', hr', hlo', hhi', hrange⟩ := (portOutValid_iff_of_emitdg hb hs hf hc).mp h
  obtain rfl : r = r' := Option.some.inj (hr.symm.trans hr')
  obtain rfl : lo = lo' := Option.some.inj (hlo.symm.trans hlo')
  obtain rfl : hi = hi' := Option.some.inj (hhi.symm.trans hhi')
  rw [waitingRecord_of_running hb hs hf, recordAtPc_eq_some_iff_of_emitdg hc]
  exact ⟨r, lo, hi, hr, hlo, hhi, hrange, rfl⟩

/-! ### The fields of `OUT_DATA` -/

/-- A field above the lowest one of a concatenation lies 16 bits lower without it. -/
theorem extractLsb'_append_above {n : Nat} (x : BitVec n) (y : Count) (start : Nat) :
    (x ++ y).extractLsb' (start + 16) 16 = x.extractLsb' start 16 := by
  rw [BitVec.extractLsb'_append_eq_of_le (Nat.le_add_left 16 start), Nat.add_sub_cancel]

/-- Six counts side by side are read back from bit 95 down, first to last (10_state.md R41). -/
theorem extractLsb'_sixFields (a b c d e f : Count) :
    let x : BitVec 96 := a ++ b ++ c ++ d ++ e ++ f
    x.extractLsb' 80 16 = a ∧ x.extractLsb' 64 16 = b ∧ x.extractLsb' 48 16 = c ∧ x.extractLsb' 32 16 = d ∧
      x.extractLsb' 16 16 = e ∧ x.extractLsb' 0 16 = f := by
  have low : ∀ {n : Nat} (x : BitVec n) (y : Count), (x ++ y).extractLsb' 0 16 = y :=
    fun _ _ => BitVec.extractLsb'_append_eq_right
  have drop₁ := extractLsb'_append_above (a ++ b ++ c ++ d ++ e) f
  have drop₂ := fun i => (drop₁ (i + 16)).trans (extractLsb'_append_above (a ++ b ++ c ++ d) e i)
  have drop₃ := fun i => (drop₂ (i + 16)).trans (extractLsb'_append_above (a ++ b ++ c) d i)
  have drop₄ := fun i => (drop₃ (i + 16)).trans (extractLsb'_append_above (a ++ b) c i)
  have drop₅ := fun i => (drop₄ (i + 16)).trans (extractLsb'_append_above a b i)
  exact ⟨(drop₅ 0).trans BitVec.extractLsb'_eq_self, (drop₄ 0).trans (low _ b), (drop₃ 0).trans (low _ c),
    (drop₂ 0).trans (low _ d), (drop₁ 0).trans (low _ e), low _ f⟩

/-- Settles O42: the ports show the registers, and `OUT_KIND` and `OUT_DATA` those of the waiting record. -/
theorem outputPortsShowTheState : Obligations.OutputPortsShowTheState := by
  intro s
  refine ⟨⟨rfl, rfl, rfl, rfl⟩, portTmrStart_iff s, fun h => ?valid, fun hb hs hf hc => ?touchValid,
    fun hb hs hf hc => ?diagValid, fun h hc => ?touch, fun h hc r lo hi hr hlo hhi => ?diag, fun h => ?idle⟩
  case valid =>
    obtain ⟨hb, hs, hf⟩ := running_of_portOutValid h
    exact ⟨hb, hs, hf, emitting_of_portOutValid h⟩
  case touchValid => exact portOutValid_iff_of_emitev hb hs hf hc
  case diagValid => exact portOutValid_iff_of_emitdg hb hs hf hc
  case touch =>
    have hwait := waitingRecord_touch h hc
    exact ⟨by rw [portOutKind, hwait]; rfl, by rw [portOutData, hwait]; rfl⟩
  case diag =>
    have hwait := waitingRecord_diag h hc hr hlo hhi
    exact ⟨by rw [portOutKind, hwait]; rfl, _, by rw [portOutData, hwait]; rfl,
      extractLsb'_sixFields r lo hi (hi - lo) (r - lo) (hi - r)⟩
  case idle =>
    have hwait : waitingRecord s = none := by simpa [portOutValid] using h
    exact ⟨by rw [portOutKind, hwait]; rfl, by rw [portOutData, hwait]; rfl⟩

end Sys2Proof.Machine
end

section
/-! PROOF. What a turn can do, said once for the whole machine, and the loader (40_sequencer.md R90, log 8). -/

namespace Sys2Proof.Machine

/-! ### A step that runs a command -/

theorem commandAtPc_eq_some_iff {s : State} {i : Instr} :
    commandAtPc s = some i ↔ ∃ w, fetchWord s = some w ∧ decode w = .ok i := by
  unfold commandAtPc
  cases fetchWord s with
  | none => simp
  | some w => cases hd : decode w <;> simp [hd]

theorem agentStep_of_runsCommand {s : State} {i : Instr} (h : RunsCommand s i) : agentStep s = exec i s := by
  obtain ⟨ha, hb, hs, hc⟩ := h
  obtain ⟨w, hw, hd⟩ := commandAtPc_eq_some_iff.mp hc
  simp [agentStep, ha, seqTurn, hb, hs, seqCommand, hw, hd]

/-- In a legal unfaulted machine a step that runs `i` is the meaning of `i` and the passing of the slot. -/
theorem step_of_runsCommand {s : State} {i : Instr} (hl : s.cfg.legal = true) (hf : s.fault = none)
    (h : RunsCommand s i) : step s = onNext State.passSlot (exec i s) := by
  simp [step, hl, hf, agentStep_of_runsCommand h]

/-! ### What a turn can do -/

/-- The state `u` in which the turn of the agent in force leaves `s`, before the slot passes: one constructor per
thing an agent can do, with what it takes. `hold` is the turn of an agent that has no step (log 6). `step_turn` ties
it to `step`. -/
inductive Turn (s : State) : State → Prop where
  | command {i : Instr} {u : State} : RunsCommand s i → exec i s = .next u → Turn s u
  | boot : s.slot.agent = .seq → s.booted = false → Turn s s.boot
  | hold : Turn s s
  | fetchFault : s.slot.agent = .seq → s.booted = true → s.sleeping = false → fetchWord s = none →
      Turn s (s.setFault (.fetch s.pc))
  | illegalWord {w : Word} {e : DecodeReject} : s.slot.agent = .seq → s.booted = true → s.sleeping = false →
      fetchWord s = some w → decode w = .error e → Turn s (s.setFault (.illegal w))
  | expire : s.slot.agent = .tmr → tmrEnabled s = true → Turn s s.expire
  | interrupt (src : Source) : s.slot.agent = .int src → intEnabled src s = true → Turn s (takeInterrupt src s)
  | request : s.slot.agent = .env → Turn s (s.setOpend true)

theorem turn_of_seqTurn {s u : State} (ha : s.slot.agent = .seq) (h : seqTurn s = .next u) : Turn s u := by
  rcases seqTurn_cases h with ⟨hb, rfl⟩ | ⟨-, -, rfl⟩ | ⟨hb, hs, hw, rfl⟩ | ⟨w, e, hb, hs, hw, hd, rfl⟩ |
    ⟨w, i, hb, hs, hw, hd, hexec⟩
  · exact .boot ha hb
  · exact .hold
  · exact .fetchFault ha hb hs hw
  · exact .illegalWord ha hb hs hw hd
  · exact .command ⟨ha, hb, hs, commandAtPc_eq_some_iff.mpr ⟨w, hw, hd⟩⟩ hexec

theorem turn_tmrTurn {s : State} (ha : s.slot.agent = .tmr) : Turn s (tmrTurn s) := by
  unfold tmrTurn
  split
  · exact .expire ha ‹_›
  · exact .hold

theorem turn_intTurn {s : State} {src : Source} (ha : s.slot.agent = .int src) : Turn s (intTurn src s) := by
  unfold intTurn
  split
  · exact .interrupt src ha ‹_›
  · exact .hold

theorem turn_of_agentStep {s u : State} (h : agentStep s = .next u) : Turn s u := by
  rcases agentStep_cases h with ⟨ha, hseq⟩ | ⟨ha, rfl⟩ | ⟨src, ha, rfl⟩ | ⟨ha, rfl⟩
  · exact turn_of_seqTurn ha hseq
  · exact turn_tmrTurn ha
  · exact turn_intTurn ha
  · exact .request ha

/-- A step is a turn and the passing of the slot. -/
theorem step_turn {s t : State} (h : step s = .next t) : ∃ u, Turn s u ∧ t = u.passSlot := by
  obtain ⟨-, -, u, hu, rfl⟩ := step_eq_next h
  exact ⟨u, turn_of_agentStep hu, rfl⟩

/-! ### The loader -/

/-- A legal configuration stays legal under any ROM of at most 256 words (00_scope.md R7, P12). -/
theorem legal_of_rom {c : Config} {rom : List Word} (hc : c.legal = true) (hrom : rom.length ≤ 256) :
    Config.legal { c with rom := rom } = true := by
  simp only [Config.legal, Bool.and_eq_true] at hc ⊢
  obtain ⟨hwindow, hsamples, hthreshold, htiming, -⟩ := hc
  exact ⟨hwindow, hsamples, hthreshold, htiming, decide_eq_true hrom⟩

/-- Whether or not the loader makes the boot step, a field that it does not write is as before. -/
theorem ite_boot_eq {α : Type} (f : State → α) (s : State) (h : f s.boot = f s) :
    f (if s.booted then s else s.boot) = f s := by
  split
  · rfl
  · exact h

theorem readyToFetch_cfg (s : State) (w : Word) :
    (readyToFetch s w).cfg = { s.cfg with rom := placeWord s.cfg.rom s.pc.toNat w } :=
  congrArg (fun c : Config => { c with rom := placeWord s.cfg.rom s.pc.toNat w }) (ite_boot_eq State.cfg s rfl)

theorem readyToFetch_pc (s : State) (w : Word) : (readyToFetch s w).pc = s.pc := ite_boot_eq State.pc s rfl

theorem readyToFetch_booted (s : State) (w : Word) : (readyToFetch s w).booted = true := by
  show (if s.booted then s else s.boot).booted = true
  split
  · assumption
  · rfl

theorem readyToFetch_legal {s : State} (w : Word) (h : s.cfg.legal = true) :
    (readyToFetch s w).cfg.legal = true := by
  have hrom : s.cfg.rom.length ≤ 256 := by
    simp only [Config.legal, Bool.and_eq_true] at h
    obtain ⟨-, -, -, -, hrom⟩ := h
    exact of_decide_eq_true hrom
  have hpc := s.pc.isLt
  rw [readyToFetch_cfg]
  exact legal_of_rom h (by rw [placeWord_length]; omega)

theorem fetchWord_readyToFetch (s : State) (w : Word) : fetchWord (readyToFetch s w) = some w := by
  rw [fetchWord, readyToFetch_pc, readyToFetch_cfg]
  exact placeWord_same _ _ w

/-- After the load SEQ's next step runs the command of the word. -/
theorem readyToFetch_runsCommand {s : State} {w : Word} {i : Instr} (hd : decode w = .ok i) :
    RunsCommand (readyToFetch s w) i :=
  ⟨rfl, readyToFetch_booted s w, rfl, commandAtPc_eq_some_iff.mpr ⟨w, fetchWord_readyToFetch s w, hd⟩⟩

/-- All 16 bits of a word are loaded. -/
theorem withFetchWord_eq (s : State) (w : Word) : s.withFetchWord 16 w.toNat = readyToFetch s w := by
  rw [State.withFetchWord, Nat.mod_eq_of_lt w.isLt, BitVec.ofNat_toNat, BitVec.setWidth_eq]

/-- Settles O7: the loaded ROM is `placeWord` of the old one, and the loaded machine is ready to run the command. -/
theorem withFetchWordRunsTheCommand : Obligations.WithFetchWordRunsTheCommand := by
  intro s w i hl hd
  rw [withFetchWord_eq, readyToFetch_cfg]
  exact ⟨placeWord_same _ _ w, fun j hj hne => placeWord_other _ _ j w hne hj,
    step_of_runsCommand (readyToFetch_legal w hl) rfl (readyToFetch_runsCommand hd)⟩

end Sys2Proof.Machine
end

section
/-! PROOF. What a command can leave behind, for any property of states: one lemma per shared operation of
Machine/Ops.lean, so that a proof about the commands goes through the operations they are made of. -/

namespace Sys2Proof.Machine

section
variable {P : State → Prop} {s : State}

theorem of_withWritten {α : Type} {r : RegName} {v : Option α} {go : α → State}
    (hfault : ∀ f, P (s.setFault f)) (hgo : ∀ x, v = some x → P (go x)) : P (withWritten r v s go) := by
  cases v with
  | none => exact hfault _
  | some x => exact hgo x rfl

theorem of_branchIf (taken : Bool) (off : Int) (h : ∀ a, P (s.setPc a)) : P (branchIf taken off s) := by
  rw [branchIf_eq]
  exact h _

theorem of_emitRecord {e : TraceEvent} (hhold : P s) (hhand : P (advancePc (s.logEvent e))) :
    P (emitRecord e s) := by
  unfold emitRecord
  split
  · exact hhand
  · exact hhold

theorem of_withKickRegister {go : State} (hfault : ∀ f, P (s.setFault f)) (hgo : P go) :
    P (withKickRegister s go) := by
  unfold withKickRegister
  split
  · exact of_withWritten hfault fun _ _ => hgo
  · exact of_withWritten hfault fun _ _ => hgo
  · exact hgo

theorem of_chargeDrive (hard : Bool) (p : Pin) (hdirect : P (drivePin p .driveHigh s))
    (hvia : P (drivePin p .driveHigh (drivePin p .pullup s))) : P (chargeDrive hard p s) := by
  cases hard
  · exact hvia
  · exact hdirect

theorem of_chargeDelayEvent (hzero : P s) (hdelay : ∀ n, P (s.logEvent (.delay n))) : P (chargeDelayEvent s) := by
  unfold chargeDelayEvent
  split
  · exact hzero
  · exact hdelay _

end

end Sys2Proof.Machine
end

section
/-! PROOF. The configuration and the history (20_memory.md R51, R52, R62): no step writes the one, and `PUSH` alone
writes the other. -/

namespace Sys2Proof.Machine

/-! ### The configuration -/

theorem turn_keeps_cfg {s u : State} (h : Turn s u) : u.cfg = s.cfg := by
  cases h with
  | command _ hexec =>
    obtain ⟨hcfg, -⟩ := exec_keeps hexec
    exact hcfg
  | interrupt src => cases src <;> rfl
  | _ => rfl

theorem step_keeps_cfg {s t : State} (h : step s = .next t) : t.cfg = s.cfg := by
  obtain ⟨u, hu, rfl⟩ := step_turn h
  show u.cfg = s.cfg
  exact turn_keeps_cfg hu

/-- Settles O50, by induction on the run. -/
theorem configurationNeverChanges : Obligations.ConfigurationNeverChanges := by
  intro s t h
  induction h with
  | here => rfl
  | more _ hstep ih => exact (step_keeps_cfg hstep).trans ih

/-! ### Who writes the history -/

/-- `t` has the history and the write pointer of `s`. -/
def SameHistory (s t : State) : Prop := t.hist = s.hist ∧ t.wp = s.wp

theorem SameHistory.read {s t : State} (h : SameHistory s t) (j : Nat) : t.hist.read j = s.hist.read j := by
  obtain ⟨hhist, -⟩ := h
  rw [hhist]

/-- Every command but `PUSH` leaves the history alone: by the operations that choose between two results, and by
computation for a command with one. -/
theorem exec_sameHistory {i : Instr} (hi : i ≠ .push) (s : State) : ∃ t, exec i s = .next t ∧ SameHistory s t := by
  have hfault : ∀ f, SameHistory s (s.setFault f) := fun _ => ⟨rfl, rfl⟩
  have hbranch : ∀ taken off, SameHistory s (branchIf taken off s) :=
    fun taken off => of_branchIf taken off fun _ => ⟨rfl, rfl⟩
  have hemit : ∀ e, SameHistory s (emitRecord e s) := fun _ => of_emitRecord ⟨rfl, rfl⟩ ⟨rfl, rfl⟩
  cases i with
  | push => exact absurd rfl hi
  | chg p =>
    exact ⟨_, rfl, of_withKickRegister hfault
      (of_chargeDrive (P := fun u => SameHistory s (advancePc u)) _ p ⟨rfl, rfl⟩ ⟨rfl, rfl⟩)⟩
  | cdelay =>
    exact ⟨_, rfl, of_chargeDelayEvent (P := fun u => SameHistory s (advancePc u)) ⟨rfl, rfl⟩ fun _ => ⟨rfl, rfl⟩⟩
  | cntinc | rawset => exact ⟨_, rfl, of_withWritten hfault fun _ _ => ⟨rfl, rfl⟩⟩
  | eval => exact ⟨_, rfl, of_withWritten hfault fun _ _ => of_withWritten hfault fun _ _ => ⟨rfl, rfl⟩⟩
  | accadd =>
    refine ⟨_, rfl, of_withWritten hfault fun _ _ => of_withWritten hfault fun _ _ => of_withWritten hfault
      fun _ _ => ?_⟩
    split
    · exact hfault _
    · exact ⟨rfl, rfl⟩
  | avg =>
    refine ⟨_, rfl, of_withWritten hfault fun _ _ => ?_⟩
    split
    · exact hfault _
    · exact ⟨rfl, rfl⟩
  | emitev =>
    refine ⟨_, rfl, of_withWritten hfault fun _ _ => ?_⟩
    split
    · exact hemit _
    · exact ⟨rfl, rfl⟩
  | emitdg =>
    refine ⟨_, rfl, of_withWritten hfault fun _ _ => of_withWritten hfault fun _ _ => of_withWritten hfault
      fun _ _ => ?_⟩
    split
    · exact hemit _
    · exact hfault _
  | bra off | bflag off | bnflag off => exact ⟨_, rfl, hbranch _ off⟩
  | bpass off =>
    exact ⟨_, rfl, of_withWritten hfault fun _ _ => of_withWritten hfault fun _ _ => hbranch _ off⟩
  | bsub off => exact ⟨_, rfl, of_withWritten hfault fun _ _ => hbranch _ off⟩
  | _ => exact ⟨_, rfl, rfl, rfl⟩

/-- `PUSH` writes the slot `wp` alone. -/
theorem exec_push_read_other {s t : State} (h : exec .push s = .next t) {j : Nat} (hj : j ≠ s.wp) :
    t.hist.read j = s.hist.read j := by
  obtain rfl := Host.Outcome.next.inj h
  exact of_withWritten (P := fun u => u.hist.read j = s.hist.read j) (fun _ => rfl)
    fun r _ => Memory.read_write_other s.hist r hj

/-- A turn that does not run `PUSH` leaves the history alone. -/
theorem turn_sameHistory {s u : State} (h : Turn s u) :
    SameHistory s u ∨ RunsCommand s .push ∧ exec .push s = .next u := by
  cases h with
  | @command i _ hrun hexec =>
    by_cases hi : i = .push
    · subst hi
      exact .inr ⟨hrun, hexec⟩
    · obtain ⟨t, ht, hsame⟩ := exec_sameHistory hi s
      obtain rfl := Host.Outcome.next.inj (ht.symm.trans hexec)
      exact .inl hsame
  | interrupt src => cases src <;> exact .inl ⟨rfl, rfl⟩
  | _ => exact .inl ⟨rfl, rfl⟩

/-- Settles O38: the passing of the slot after the turn does not touch the history. -/
theorem onlyPushWritesTheHistory : Obligations.OnlyPushWritesTheHistory := by
  intro s t h
  obtain ⟨u, hu, rfl⟩ := step_turn h
  rcases turn_sameHistory hu with hsame | ⟨hrun, hexec⟩
  · exact ⟨.inr hsame, fun j _ => hsame.read j⟩
  · exact ⟨.inl hrun, fun _ hj => exec_push_read_other hexec hj⟩

/-! ### The window -/

/-- Place `j` behind the moved pointer is place `j + 1` behind the old one. -/
theorem ring_succ_add (wp w j : Nat) : ((wp + 1) % w + j) % w = (wp + (j + 1)) % w := by
  rw [Nat.mod_add_mod, Nat.add_assoc, Nat.add_comm 1]

/-- Less than one turn round the ring does not come back to the slot it started from. -/
theorem ring_ne {wp w d : Nat} (hwp : wp < w) (hpos : 0 < d) (hd : d < w) : (wp + d) % w ≠ wp := by
  by_cases hwrap : wp + d < w
  · rw [Nat.mod_eq_of_lt hwrap]
    omega
  · rw [Nat.mod_eq_sub_mod (by omega), Nat.mod_eq_of_lt (by omega)]
    omega

/-- The write of the slot `wp` and the move of the pointer: the oldest value goes, and the new one is the newest
(20_memory.md R52). -/
theorem Memory.oldestFirst_write {w wp : Nat} {m : Memory} (v : Count) (hwp : wp < w) (hm : m.wf w = true) :
    (m.write wp v).oldestFirst w ((wp + 1) % w) = (m.oldestFirst w wp).drop 1 ++ [v] := by
  obtain ⟨n, rfl⟩ : ∃ n, w = n + 1 := ⟨w - 1, by omega⟩
  have hkept : ∀ j ∈ List.range n,
      (m.write wp v).read (((wp + 1) % (n + 1) + j) % (n + 1)) = m.read ((wp + (j + 1)) % (n + 1)) := by
    intro j hj
    have hlt := List.mem_range.mp hj
    rw [ring_succ_add, Memory.read_write_other m v (ring_ne hwp (by omega) (by omega))]
  have hnewest : (m.write wp v).read (((wp + 1) % (n + 1) + n) % (n + 1)) = v := by
    rw [ring_succ_add, Nat.add_mod_right, Nat.mod_eq_of_lt hwp]
    exact Memory.read_write_same v hm
  calc (m.write wp v).oldestFirst (n + 1) ((wp + 1) % (n + 1))
      = (List.range n).map (fun j => (m.write wp v).read (((wp + 1) % (n + 1) + j) % (n + 1))) ++ [v] := by
        rw [Memory.oldestFirst, List.range_succ, List.map_append, List.map_singleton, hnewest]
    _ = (List.range n).map (fun j => m.read ((wp + (j + 1)) % (n + 1))) ++ [v] := by
        rw [List.map_congr_left hkept]
    _ = (m.oldestFirst (n + 1) wp).drop 1 ++ [v] := by
        simp [Memory.oldestFirst, List.range_succ_eq_map, Function.comp_def]

theorem exec_push_of_written {s : State} {r : Count} (hr : s.reading = some r) :
    exec .push s = .next (advancePc (s.pushHistory r)) := by
  show Host.Outcome.next (withWritten _ _ _ _) = _
  rw [hr, withWritten_some]

/-- Settles O31: a push is one write of the slot `wp` and one move of the pointer. -/
theorem pushShiftsTheWindow : Obligations.PushShiftsTheWindow := by
  rintro s t r ⟨hwp, hwf⟩ hr h
  obtain rfl := Host.Outcome.next.inj ((exec_push_of_written hr).symm.trans h)
  exact Memory.oldestFirst_write r hwp hwf

end Sys2Proof.Machine
end

section
/-! PROOF. The invariant of the whole machine: each write of the machine keeps it under what that write needs, then
each command, then each turn. -/

namespace Sys2Proof.Machine

/-! ### The clauses about pairs of registers -/

theorem accumulatorWithin_some_iff {t : Total} {i : SubIndex} :
    accumulatorWithin (some t) (some i) = true ↔ i.toNat ≤ t.toNat ∧ t.toNat ≤ i.toNat * 0xFFFF := by
  simp [accumulatorWithin]

theorem extremesOrdered_some_iff {lo hi : Count} :
    extremesOrdered (some lo) (some hi) = true ↔ lo.toNat ≤ hi.toNat := by
  simp [extremesOrdered]

/-- A Raw Sample is never 0: the counter's 0 stands for a wrap (43_sample_acquirer.md R143, R148). -/
theorem rawSample_ne_zero (n : Count) : rawSample n ≠ 0 := by
  unfold rawSample
  split
  · decide
  · assumption

/-- One more Raw Sample adds 1 to 0xFFFF to the sum (43_sample_acquirer.md R150). -/
theorem accumulatorWithin_add {r : Count} {t : Total} {i : SubIndex} (hr : r ≠ 0)
    (hwithin : accumulatorWithin (some t) (some i) = true) (hfits : accumulatorOverflows t r i = false) :
    accumulatorWithin (some (t + r.zeroExtend 32)) (some (i + 1)) = true := by
  rw [accumulatorWithin_some_iff] at hwithin ⊢
  have hpos : r.toNat ≠ 0 := fun h => hr (BitVec.eq_of_toNat_eq h)
  have hlt := r.isLt
  have hover := (accumulatorOverflows_iff t r i).not.mp (by simp [hfits])
  rw [sum_toNat t r (by omega), index_toNat i (by omega)]
  omega

/-- Over a window with a slot the minimum is at most the maximum (44_touch_detector.md R162). -/
theorem Memory.lowest_le_highest {window : Nat} (m : Memory) (h : 0 < window) :
    (m.lowest window).toNat ≤ (m.highest window).toNat := by
  have hslot : m.read 0 ∈ m.slots window := Memory.mem_slots.mpr ⟨0, h, rfl⟩
  exact (Count.foldr_lower_le _ hslot).trans (Count.le_foldr_upper _ hslot)

theorem bootOk_of_booted {s : State} (hb : s.booted = true) : s.BootOk :=
  fun hnot => absurd (hb.symm.trans hnot) nofun

/-! ### Each write keeps the invariant -/

section
variable {s : State}

theorem State.Inv.setPc (h : s.Inv) (hb : s.booted = true) (a : RomIndex) : (s.setPc a).Inv :=
  { h with boot := bootOk_of_booted hb }

theorem State.Inv.advancePc (h : s.Inv) (hb : s.booted = true) : (advancePc s).Inv := h.setPc hb _

theorem State.Inv.setFault (h : s.Inv) (hb : s.booted = true) (f : FaultRecord) : (s.setFault f).Inv :=
  { h with boot := bootOk_of_booted hb }

theorem State.Inv.logEvent (h : s.Inv) (hb : s.booted = true) (e : TraceEvent) : (s.logEvent e).Inv :=
  { h with boot := bootOk_of_booted hb }

theorem State.Inv.drivePin (h : s.Inv) (hb : s.booted = true) (p : Pin) (m : PinMode) : (drivePin p m s).Inv :=
  { h with boot := bootOk_of_booted hb }

theorem State.Inv.setCmp (h : s.Inv) (b : Bool) : (s.setCmp b).Inv := { h with }

theorem State.Inv.setCnt (h : s.Inv) (v : Count) : (s.setCnt v).Inv := { h with }

theorem State.Inv.setReading (h : s.Inv) (v : Count) : (s.setReading v).Inv := { h with }

theorem State.Inv.setRaw (h : s.Inv) {v : Count} (hv : v ≠ 0) : (s.setRaw v).Inv :=
  { h with raw := fun heq => hv (Option.some.inj heq) }

theorem State.Inv.setAccumulator (h : s.Inv) {t : Total} {i : SubIndex}
    (hti : accumulatorWithin (some t) (some i) = true) : (s.setAccumulator t i).Inv :=
  { h with accumulator := hti }

theorem State.Inv.pushHistory (h : s.Inv) (v : Count) : (s.pushHistory v).Inv :=
  have ⟨hwp, hwf⟩ := h.history
  { h with history := ⟨Nat.mod_lt _ (window_pos_of_legal h.config), Memory.write_wf v hwf hwp⟩ }

theorem State.Inv.setMinMax (h : s.Inv) {lo hi : Count} (hle : lo.toNat ≤ hi.toNat) : (s.setMinMax lo hi).Inv :=
  have ⟨_, honset, hfirst⟩ := h.detector
  { h with detector := ⟨extremesOrdered_some_iff.mpr hle, honset, hfirst⟩ }

/-- `event` becomes 1 only where `cond` holds, and `inpeak` becomes `cond` (44_touch_detector.md R163, R165). -/
theorem State.Inv.evaluate (h : s.Inv) (cond : Bool) : (evaluate cond s).Inv :=
  have ⟨hmnmx, _, _⟩ := h.detector
  have honset : some (touchOnset cond s.inpeak) = some true → cond = true := fun he => by
    simp only [touchOnset, Option.some.injEq, Bool.and_eq_true] at he
    obtain ⟨hcond, -⟩ := he
    exact hcond
  { h with detector := ⟨hmnmx, honset, nofun⟩ }

/-- Masking interrupts needs an awake SEQ: a suspended one could not be woken (60_exceptions.md R203). -/
theorem State.Inv.setIe (h : s.Inv) (hb : s.booted = true) (hs : s.sleeping = false) (b : Bool) : (s.setIe b).Inv :=
  { h with sleep := fun hsleep => absurd (hs.symm.trans hsleep) nofun, boot := bootOk_of_booted hb }

/-- `SLEEPEN` unmasks interrupts in the step that suspends SEQ (40_sequencer.md R94). -/
theorem State.Inv.suspend (h : s.Inv) (hb : s.booted = true) : ((s.setIe true).setSleeping true).Inv :=
  { h with sleep := fun _ => ⟨rfl, hb⟩, boot := bootOk_of_booted hb }

theorem State.Inv.wake (h : s.Inv) : (s.setSleeping false).Inv :=
  { h with
    sleep := nofun
    boot := fun hnot =>
      have ⟨hie, htrun, _, hrest⟩ := h.boot hnot
      ⟨hie, htrun, rfl, hrest⟩ }

theorem State.Inv.armWindow (h : s.Inv) (hb : s.booted = true) : s.armWindow.Inv :=
  { h with timer := ⟨nofun, fun _ _ => rfl, nofun⟩, boot := bootOk_of_booted hb }

theorem State.Inv.stopCountdown (h : s.Inv) (hb : s.booted = true) : s.stopCountdown.Inv :=
  have ⟨hpend, _, hfired⟩ := h.timer
  { h with timer := ⟨hpend, nofun, hfired⟩, boot := bootOk_of_booted hb }

/-- The expiry falls in an open window, because the countdown that expires has not fired (42_discharge_timer.md
R130). -/
theorem State.Inv.expire (h : s.Inv) (hrun : s.trun = true) (hfired : s.tfired = false) : s.expire.Inv :=
  have ⟨_, hopen, _⟩ := h.timer
  { h with timer := ⟨fun _ => ⟨hopen hrun hfired, rfl⟩, nofun, fun _ _ => rfl⟩ }

/-- The handler closes a window that has fired, so no countdown is left to expire in a closed one
(42_discharge_timer.md R131, R132). -/
theorem State.Inv.closeWindow (h : s.Inv) (hpend : s.tpend = true) : s.closeWindow.Inv :=
  have ⟨hpendOk, _, _⟩ := h.timer
  have ⟨_, hfired⟩ := hpendOk hpend
  { h with timer := ⟨nofun, fun _ hnot => absurd (hfired.symm.trans hnot) nofun, nofun⟩ }

theorem State.Inv.setOpend (h : s.Inv) (b : Bool) : (s.setOpend b).Inv := { h with }

theorem State.Inv.afterBoot (h : s.Inv) : s.boot.Inv :=
  { h with sleep := fun _ => ⟨rfl, rfl⟩, boot := nofun }

theorem State.Inv.passSlot (h : s.Inv) : s.passSlot.Inv := { h with }

end

/-! ### Each command keeps the invariant -/

/-- A command runs booted and awake. Its writes keep the invariant one by one; the facts that the writes need come
from the command's own tests and from the invariant before. -/
theorem exec_keeps_inv {s : State} (h : s.Inv) (hb : s.booted = true) (hs : s.sleeping = false) (i : Instr) :
    ∃ t, exec i s = .next t ∧ t.Inv := by
  have hfault : ∀ f, (s.setFault f).Inv := h.setFault hb
  have hbranch : ∀ taken off, (branchIf taken off s).Inv := fun taken off => of_branchIf taken off (h.setPc hb)
  have hdrive : ∀ p m, (advancePc (drivePin p m s)).Inv := fun p m => (h.drivePin hb p m).advancePc hb
  have hemit : ∀ e, (emitRecord e s).Inv := fun e => of_emitRecord h ((h.logEvent hb e).advancePc hb)
  cases i with
  | nop => exact ⟨_, rfl, h.advancePc hb⟩
  | cli => exact ⟨_, rfl, (h.setIe hb hs false).advancePc hb⟩
  | sei => exact ⟨_, rfl, (h.setIe hb hs true).advancePc hb⟩
  | sleepen => exact ⟨_, rfl, (h.suspend hb).advancePc hb⟩
  | drvl p => exact ⟨_, rfl, hdrive p .driveLow⟩
  | drvh p => exact ⟨_, rfl, hdrive p .driveHigh⟩
  | floatPin p => exact ⟨_, rfl, hdrive p .hiz⟩
  | pullup p => exact ⟨_, rfl, hdrive p .pullup⟩
  | drvl2 => exact ⟨_, rfl, ((h.drivePin hb .A .driveLow).drivePin hb .B .driveLow).advancePc hb⟩
  | chg p =>
    exact ⟨_, rfl, of_withKickRegister hfault (of_chargeDrive (P := fun u => (advancePc u).Inv) _ p
      (hdrive p .driveHigh) (((h.drivePin hb p .pullup).drivePin hb p .driveHigh).advancePc hb))⟩
  | cmprd => exact ⟨_, rfl, (h.setCmp s.slot.cmpBelow).advancePc hb⟩
  | cdelay =>
    exact ⟨_, rfl, of_chargeDelayEvent (P := fun u => (advancePc u).Inv) (h.advancePc hb)
      fun _ => (h.logEvent hb _).advancePc hb⟩
  | dtstart => exact ⟨_, rfl, (h.armWindow hb).advancePc hb⟩
  | dtstop => exact ⟨_, rfl, (h.stopCountdown hb).advancePc hb⟩
  | cntclr => exact ⟨_, rfl, (h.setCnt 0).advancePc hb⟩
  | cntinc => exact ⟨_, rfl, of_withWritten hfault fun n _ => (h.setCnt (n + 1)).advancePc hb⟩
  | rawset => exact ⟨_, rfl, of_withWritten hfault fun n _ => (h.setRaw (rawSample_ne_zero n)).advancePc hb⟩
  | accclr => exact ⟨_, rfl, (h.setAccumulator (t := 0) (i := 0) rfl).advancePc hb⟩
  | accadd =>
    refine ⟨_, rfl, of_withWritten hfault fun r hr => of_withWritten hfault fun t ht => of_withWritten hfault
      fun k hk => ?_⟩
    split
    · exact hfault _
    · have hraw : r ≠ 0 := fun hzero => h.raw (hr.trans (congrArg some hzero))
      have hwithin : accumulatorWithin (some t) (some k) = true := ht ▸ hk ▸ h.accumulator
      exact (h.setAccumulator (accumulatorWithin_add hraw hwithin (Bool.eq_false_iff.mpr ‹_›))).advancePc hb
  | avg =>
    refine ⟨_, rfl, of_withWritten hfault fun _ _ => ?_⟩
    split
    · exact hfault _
    · exact (h.setReading _).advancePc hb
  | push => exact ⟨_, rfl, of_withWritten hfault fun r _ => (h.pushHistory r).advancePc hb⟩
  | scan =>
    exact ⟨_, rfl, (h.setMinMax (s.hist.lowest_le_highest (window_pos_of_legal h.config))).advancePc hb⟩
  | eval =>
    exact ⟨_, rfl, of_withWritten hfault fun _ _ => of_withWritten hfault fun _ _ =>
      (h.evaluate _).advancePc hb⟩
  | emitev =>
    refine ⟨_, rfl, of_withWritten hfault fun _ _ => ?_⟩
    split
    · exact hemit _
    · exact h.advancePc hb
  | emitdg =>
    refine ⟨_, rfl, of_withWritten hfault fun _ _ => of_withWritten hfault fun _ _ => of_withWritten hfault
      fun _ _ => ?_⟩
    split
    · exact hemit _
    · exact hfault _
  | bra off | bflag off | bnflag off => exact ⟨_, rfl, hbranch _ off⟩
  | bpass off => exact ⟨_, rfl, of_withWritten hfault fun _ _ => of_withWritten hfault fun _ _ => hbranch _ off⟩
  | bsub off => exact ⟨_, rfl, of_withWritten hfault fun _ _ => hbranch _ off⟩

/-! ### Each turn keeps the invariant -/

theorem takeInterrupt_keeps_inv {s : State} (h : s.Inv) {src : Source} (hpend : s.pending src = true) :
    (takeInterrupt src s).Inv := by
  cases src with
  | timer => exact (h.closeWindow hpend).wake
  | other => exact (h.setOpend false).wake

theorem turn_keeps_inv {s u : State} (h : s.Inv) (hu : Turn s u) : u.Inv := by
  cases hu with
  | @command i _ hrun hexec =>
    obtain ⟨-, hb, hs, -⟩ := hrun
    obtain ⟨t, ht, hinv⟩ := exec_keeps_inv h hb hs i
    obtain rfl := Host.Outcome.next.inj (ht.symm.trans hexec)
    exact hinv
  | boot => exact h.afterBoot
  | hold => exact h
  | fetchFault _ hb | illegalWord _ hb => exact h.setFault hb _
  | expire _ henabled =>
    obtain ⟨-, hrun, hfired⟩ := (tmrEnabled_iff s).mp henabled
    exact h.expire hrun hfired
  | interrupt src _ henabled =>
    obtain ⟨-, -, hpend⟩ := (intEnabled_iff src s).mp henabled
    exact takeInterrupt_keeps_inv h hpend
  | request => exact h.setOpend true

/-- Settles O53: a step is a turn and the passing of the slot, and both keep the invariant. -/
theorem stepKeepsTheInvariant : Obligations.StepKeepsTheInvariant := by
  intro s t h hstep
  obtain ⟨u, hu, rfl⟩ := step_turn hstep
  exact (turn_keeps_inv h hu).passSlot

end Sys2Proof.Machine
end

section
/-! PROOF. Encoding and decoding (30_encoding.md R70 to R80): the words as their fields, what the three formats
decode, what each group decodes and refuses, and the opcode table's rows. -/

namespace Sys2Proof.Machine

/-! ### A word and its fields -/

/-- The word of a group, an `op` or `cond`, and a low byte (30_encoding.md R70 to R73). -/
def wordOf (grp op : Nat) (low : BitVec 8) : Word := BitVec.ofNat 4 grp ++ BitVec.ofNat 4 op ++ low

theorem toNat_append_eq_add {m n : Nat} (x : BitVec m) (y : BitVec n) :
    (x ++ y).toNat = x.toNat * 2 ^ n + y.toNat := by
  rw [BitVec.toNat_append, ← Nat.shiftLeft_add_eq_or_of_lt y.isLt, Nat.shiftLeft_eq]

theorem toNat_wordOf (grp op : Nat) (low : BitVec 8) :
    (wordOf grp op low).toNat = (grp % 16 * 16 + op % 16) * 256 + low.toNat := by
  calc (wordOf grp op low).toNat = (BitVec.ofNat 4 grp ++ BitVec.ofNat 4 op).toNat * 2 ^ 8 + low.toNat :=
        toNat_append_eq_add _ _
    _ = _ := by rw [toNat_append_eq_add]; simp

theorem toNat_fieldGroup (w : Word) : (fieldGroup w).toNat = w.toNat / 2 ^ 12 := by
  simp only [fieldGroup, BitVec.extractLsb'_toNat, Nat.shiftRight_eq_div_pow]
  omega

theorem toNat_fieldOp (w : Word) : (fieldOp w).toNat = w.toNat / 2 ^ 8 % 16 := by
  simp [fieldOp, Nat.shiftRight_eq_div_pow]

theorem toNat_fieldLow (w : Word) : (fieldLow w).toNat = w.toNat % 2 ^ 8 := by
  simp [fieldLow]

@[simp] theorem wordOf_fields (w : Word) : wordOf (fieldGroup w).toNat (fieldOp w).toNat (fieldLow w) = w := by
  apply BitVec.eq_of_toNat_eq
  rw [toNat_wordOf, toNat_fieldGroup, toNat_fieldOp, toNat_fieldLow]
  omega

@[simp] theorem fieldGroup_wordOf (grp op : Nat) (low : BitVec 8) :
    (fieldGroup (wordOf grp op low)).toNat = grp % 16 := by
  rw [toNat_fieldGroup, toNat_wordOf]
  omega

@[simp] theorem fieldOp_wordOf (grp op : Nat) (low : BitVec 8) : (fieldOp (wordOf grp op low)).toNat = op % 16 := by
  rw [toNat_fieldOp, toNat_wordOf]
  omega

@[simp] theorem fieldLow_wordOf (grp op : Nat) (low : BitVec 8) : fieldLow (wordOf grp op low) = low := by
  apply BitVec.eq_of_toNat_eq
  rw [toNat_fieldLow, toNat_wordOf]
  omega

/-! ### The three formats -/

/-- `zero7 ++ p`, the low byte of a format-P word (30_encoding.md R72). -/
def pinByte (p : Pin) : BitVec 8 := (0 : BitVec 7) ++ bitOfPin p

theorem encodeP_eq_wordOf (op : Nat) (p : Pin) : encodeP (BitVec.ofNat 4 op) p = wordOf 1 op (pinByte p) :=
  BitVec.append_assoc

theorem encodeB_eq_wordOf (cond : Nat) (off : Int) :
    encodeB (BitVec.ofNat 4 cond) off = wordOf 7 cond (BitVec.ofInt 8 off) := rfl

theorem decodeN_eq_ok {low : BitVec 8} {i j : Instr} (h : decodeN low i = .ok j) : low = 0 ∧ j = i := by
  unfold decodeN at h
  split at h
  · exact ⟨‹low = 0›, (Except.ok.inj h).symm⟩
  · cases h

theorem decodeP_pinByte (p : Pin) (f : Pin → Instr) : decodeP (pinByte p) f = .ok (f p) := by
  cases p <;> rfl

/-- A byte whose `zero7` is 0 is the byte of the pin that its bit 0 names (30_encoding.md R72, R74). -/
theorem eq_pinByte_of_zero7 : ∀ {low : BitVec 8}, low.extractLsb' 1 7 = 0 →
    low = pinByte (pinOfBit (low.getLsbD 0)) := by
  decide

theorem decodeP_eq_ok {low : BitVec 8} {f : Pin → Instr} {i : Instr} (h : decodeP low f = .ok i) :
    ∃ p, low = pinByte p ∧ i = f p := by
  unfold decodeP at h
  split at h
  · exact ⟨_, eq_pinByte_of_zero7 ‹_›, (Except.ok.inj h).symm⟩
  · cases h

/-- The offset of format B survives its 8 bits, because it lies in −128..127 (30_encoding.md R75). -/
theorem decodeB_ofInt {off : Int} (h : offsetFits off = true) (f : Int → Instr) :
    decodeB (BitVec.ofInt 8 off) f = .ok (f off) := by
  simp only [offsetFits, Bool.and_eq_true, decide_eq_true_eq] at h
  obtain ⟨hlow, hhigh⟩ := h
  rw [decodeB, BitVec.toInt_ofInt_eq_self (by decide) hlow (Int.lt_add_one_of_le hhigh)]

theorem offsetFits_toInt (low : BitVec 8) : offsetFits low.toInt = true := by
  have hlow := low.le_toInt
  have hhigh := low.toInt_lt
  simp only [offsetFits, Bool.and_eq_true, decide_eq_true_eq]
  omega

/-! ### Decoding the word of a command -/

/-- A row of format P decodes its word, whichever the pin. -/
theorem decode_encodeP {op : Nat} {f : Pin → Instr} (hrow : ∀ low, decodePins (op % 16) low = decodeP low f)
    (p : Pin) : decode (encodeP (BitVec.ofNat 4 op) p) = .ok (f p) := by
  rw [encodeP_eq_wordOf, decode, fieldGroup_wordOf, fieldOp_wordOf, fieldLow_wordOf]
  exact (hrow _).trans (decodeP_pinByte p f)

/-- A row of format B decodes its word, for every offset the format can hold. -/
theorem decode_encodeB {cond : Nat} {f : Int → Instr} {off : Int}
    (hrow : ∀ low, decodeBranch (cond % 16) low = decodeB low f) (hfits : offsetFits off = true) :
    decode (encodeB (BitVec.ofNat 4 cond) off) = .ok (f off) := by
  rw [encodeB_eq_wordOf, decode, fieldGroup_wordOf, fieldOp_wordOf, fieldLow_wordOf]
  exact (hrow _).trans (decodeB_ofInt hfits f)

/-- Settles O55, by the format of the command: a format-N word is a constant, and a row of the other two formats
gives its operand back. -/
theorem decodeOfEncode : Obligations.DecodeOfEncode := by
  intro i hwf
  cases i with
  | drvl p | drvh p | floatPin p | pullup p | chg p => exact decode_encodeP (fun _ => rfl) p
  | bra off | bflag off | bnflag off | bpass off | bsub off => exact decode_encodeB (fun _ => rfl) hwf
  | _ => rfl

/-! ### The command that a word decodes to -/

/-- The word is the encoding of the command, and the command is one that an assembler may emit. -/
def EncodesAs (i : Instr) (w : Word) : Prop := encode i = w ∧ i.wellFormed = true

theorem decode_of_encodesAs {i : Instr} {w : Word} (h : EncodesAs i w) : decode w = .ok i := by
  obtain ⟨rfl, hwf⟩ := h
  exact decodeOfEncode i hwf

/-- Settles O60: each word written out is the encoding of its command. -/
theorem writtenOutWordsDecode : Obligations.WrittenOutWordsDecode := by
  refine ⟨?_, ?_, ?_, ?_, ?_, ?_, ?_, ?_⟩ <;> exact decode_of_encodesAs ⟨by decide, rfl⟩

/-- A format-N row decodes only the word that encodes its command. -/
theorem encodesAs_of_decodeN {grp op : Nat} {low : BitVec 8} {i j : Instr} (h : decodeN low i = .ok j)
    (hrow : EncodesAs i (wordOf grp op 0)) : EncodesAs j (wordOf grp op low) := by
  obtain ⟨rfl, rfl⟩ := decodeN_eq_ok h
  exact hrow

/-- A format-P row decodes only the two words that encode its command. -/
theorem encodesAs_of_decodeP {op : Nat} {low : BitVec 8} {f : Pin → Instr} {i : Instr}
    (h : decodeP low f = .ok i) (hrow : ∀ p, EncodesAs (f p) (encodeP (BitVec.ofNat 4 op) p)) :
    EncodesAs i (wordOf 1 op low) := by
  obtain ⟨p, rfl, rfl⟩ := decodeP_eq_ok h
  exact encodeP_eq_wordOf op p ▸ hrow p

/-- A format-B row decodes every low byte, to an offset that fits and whose encoding is that byte. -/
theorem encodesAs_of_decodeB {cond : Nat} {low : BitVec 8} {f : Int → Instr} {i : Instr}
    (h : decodeB low f = .ok i)
    (hrow : ∀ off, offsetFits off = true → EncodesAs (f off) (encodeB (BitVec.ofNat 4 cond) off)) :
    EncodesAs i (wordOf 7 cond low) := by
  obtain rfl := Except.ok.inj h
  have hword := hrow low.toInt (offsetFits_toInt low)
  rwa [encodeB_eq_wordOf, BitVec.ofInt_toInt] at hword

section
variable {op : Nat} {low : BitVec 8} {i : Instr}

theorem decodeSystem_encodesAs (h : decodeSystem op low = .ok i) : EncodesAs i (wordOf 0 op low) := by
  match op with
  | 0 | 1 | 2 | 3 => exact encodesAs_of_decodeN h ⟨rfl, rfl⟩
  | _ + 4 => cases h

theorem decodePins_encodesAs (h : decodePins op low = .ok i) : EncodesAs i (wordOf 1 op low) := by
  match op with
  | 0 | 1 | 2 | 3 | 5 => exact encodesAs_of_decodeP h fun _ => ⟨rfl, rfl⟩
  | 4 => exact encodesAs_of_decodeN h ⟨rfl, rfl⟩
  | _ + 6 => cases h

theorem decodeSense_encodesAs (h : decodeSense op low = .ok i) : EncodesAs i (wordOf 2 op low) := by
  match op with
  | 0 | 1 => exact encodesAs_of_decodeN h ⟨rfl, rfl⟩
  | _ + 2 => cases h

theorem decodeTimer_encodesAs (h : decodeTimer op low = .ok i) : EncodesAs i (wordOf 3 op low) := by
  match op with
  | 0 | 1 => exact encodesAs_of_decodeN h ⟨rfl, rfl⟩
  | _ + 2 => cases h

theorem decodeAcquirer_encodesAs (h : decodeAcquirer op low = .ok i) : EncodesAs i (wordOf 4 op low) := by
  match op with
  | 0 | 1 | 2 | 3 | 4 | 5 => exact encodesAs_of_decodeN h ⟨rfl, rfl⟩
  | _ + 6 => cases h

theorem decodeDetector_encodesAs (h : decodeDetector op low = .ok i) : EncodesAs i (wordOf 5 op low) := by
  match op with
  | 0 | 1 | 2 => exact encodesAs_of_decodeN h ⟨rfl, rfl⟩
  | _ + 3 => cases h

theorem decodeOutput_encodesAs (h : decodeOutput op low = .ok i) : EncodesAs i (wordOf 6 op low) := by
  match op with
  | 0 | 1 => exact encodesAs_of_decodeN h ⟨rfl, rfl⟩
  | _ + 2 => cases h

theorem decodeBranch_encodesAs (h : decodeBranch op low = .ok i) : EncodesAs i (wordOf 7 op low) := by
  match op with
  | 0 | 1 | 2 | 3 | 4 => exact encodesAs_of_decodeB h fun _ hfits => ⟨rfl, hfits⟩
  | _ + 5 => cases h

end

/-- Settles O56, by the group of the word: a group's decoder answers only for the words its rows encode. -/
theorem encodeOfDecode : Obligations.EncodeOfDecode := by
  intro w i h
  show EncodesAs i w
  rw [← wordOf_fields w]
  unfold decode at h
  generalize (fieldGroup w).toNat = grp at h ⊢
  match grp with
  | 0 => exact decodeSystem_encodesAs h
  | 1 => exact decodePins_encodesAs h
  | 2 => exact decodeSense_encodesAs h
  | 3 => exact decodeTimer_encodesAs h
  | 4 => exact decodeAcquirer_encodesAs h
  | 5 => exact decodeDetector_encodesAs h
  | 6 => exact decodeOutput_encodesAs h
  | 7 => exact decodeBranch_encodesAs h
  | _ + 8 => cases h

/-! ### The illegal words -/

/-- The decoder refuses the word. -/
def Refuses (r : Except DecodeReject Instr) : Prop := ∃ e, r = .error e

theorem refuses_error (e : DecodeReject) : Refuses (.error e) := ⟨e, rfl⟩

theorem not_refuses_ok (i : Instr) : ¬ Refuses (.ok i) := nofun

theorem decodeN_refuses_iff {low : BitVec 8} {i : Instr} : Refuses (decodeN low i) ↔ low.toNat ≠ 0 := by
  unfold decodeN
  split
  · rename_i hzero
    simp [hzero, not_refuses_ok]
  · rename_i hnonzero
    simpa [refuses_error, ← BitVec.toNat_inj] using hnonzero

/-- `zero7` is what the low byte holds above its bit 0 (30_encoding.md R72). -/
theorem zero7_eq_zero_iff {low : BitVec 8} : low.extractLsb' 1 7 = 0 ↔ low.toNat / 2 = 0 := by
  simp only [← BitVec.toNat_inj, BitVec.extractLsb'_toNat, Nat.shiftRight_eq_div_pow, BitVec.ofNat_eq_ofNat,
    BitVec.toNat_ofNat]
  omega

theorem decodeP_refuses_iff {low : BitVec 8} {f : Pin → Instr} : Refuses (decodeP low f) ↔ low.toNat / 2 ≠ 0 := by
  unfold decodeP
  split
  · rename_i hzero
    simp [zero7_eq_zero_iff.mp hzero, not_refuses_ok]
  · rename_i hnonzero
    simp [mt zero7_eq_zero_iff.mpr hnonzero, refuses_error]

theorem not_refuses_decodeB {low : BitVec 8} {f : Int → Instr} : ¬ Refuses (decodeB low f) := not_refuses_ok _

section
variable {op : Nat} {low : BitVec 8}

theorem decodeSystem_refuses_iff : Refuses (decodeSystem op low) ↔ 4 ≤ op ∨ low.toNat ≠ 0 := by
  match op with
  | 0 | 1 | 2 | 3 => exact decodeN_refuses_iff.trans (by omega)
  | _ + 4 => exact iff_of_true (refuses_error _) (by omega)

/-- `DRVL2` alone refuses a `p` bit of 1 (30_encoding.md R72). -/
theorem decodePins_refuses_iff :
    Refuses (decodePins op low) ↔ 6 ≤ op ∨ low.toNat / 2 ≠ 0 ∨ (op = 4 ∧ low.toNat = 1) := by
  match op with
  | 0 | 1 | 2 | 3 | 5 => exact decodeP_refuses_iff.trans (by omega)
  | 4 => exact decodeN_refuses_iff.trans (by omega)
  | _ + 6 => exact iff_of_true (refuses_error _) (by omega)

theorem decodeSense_refuses_iff : Refuses (decodeSense op low) ↔ 2 ≤ op ∨ low.toNat ≠ 0 := by
  match op with
  | 0 | 1 => exact decodeN_refuses_iff.trans (by omega)
  | _ + 2 => exact iff_of_true (refuses_error _) (by omega)

theorem decodeTimer_refuses_iff : Refuses (decodeTimer op low) ↔ 2 ≤ op ∨ low.toNat ≠ 0 := by
  match op with
  | 0 | 1 => exact decodeN_refuses_iff.trans (by omega)
  | _ + 2 => exact iff_of_true (refuses_error _) (by omega)

theorem decodeAcquirer_refuses_iff : Refuses (decodeAcquirer op low) ↔ 6 ≤ op ∨ low.toNat ≠ 0 := by
  match op with
  | 0 | 1 | 2 | 3 | 4 | 5 => exact decodeN_refuses_iff.trans (by omega)
  | _ + 6 => exact iff_of_true (refuses_error _) (by omega)

theorem decodeDetector_refuses_iff : Refuses (decodeDetector op low) ↔ 3 ≤ op ∨ low.toNat ≠ 0 := by
  match op with
  | 0 | 1 | 2 => exact decodeN_refuses_iff.trans (by omega)
  | _ + 3 => exact iff_of_true (refuses_error _) (by omega)

theorem decodeOutput_refuses_iff : Refuses (decodeOutput op low) ↔ 2 ≤ op ∨ low.toNat ≠ 0 := by
  match op with
  | 0 | 1 => exact decodeN_refuses_iff.trans (by omega)
  | _ + 2 => exact iff_of_true (refuses_error _) (by omega)

/-- Every low byte is an offset, so a branch word is illegal by its `cond` alone (30_encoding.md R73). -/
theorem decodeBranch_refuses_iff : Refuses (decodeBranch op low) ↔ 5 ≤ op := by
  match op with
  | 0 | 1 | 2 | 3 | 4 => exact iff_of_false not_refuses_decodeB (by omega)
  | _ + 5 => exact iff_of_true (refuses_error _) (by omega)

end

/-- 0x1401 by its fields: `DRVL2` with its `p` bit set (30_encoding.md R72, R78). -/
theorem eq_0x1401_iff {w : Word} :
    w = 0x1401 ↔ (fieldGroup w).toNat = 1 ∧ (fieldOp w).toNat = 4 ∧ (fieldLow w).toNat = 1 := by
  rw [toNat_fieldGroup, toNat_fieldOp, toNat_fieldLow, ← BitVec.toNat_inj]
  simp only [BitVec.ofNat_eq_ofNat, BitVec.toNat_ofNat]
  omega

/-- Settles O59, by the group of the word. -/
theorem illegalWordsAreExactlyThese : Obligations.IllegalWordsAreExactlyThese := by
  intro w
  show Refuses (decode w) ↔ _
  dsimp only
  rw [eq_0x1401_iff, ← toNat_fieldGroup, ← toNat_fieldOp, ← toNat_fieldLow]
  unfold decode
  generalize (fieldGroup w).toNat = grp
  match grp with
  | 0 => simpa using decodeSystem_refuses_iff
  | 1 => simpa using decodePins_refuses_iff
  | 2 => simpa using decodeSense_refuses_iff
  | 3 => simpa using decodeTimer_refuses_iff
  | 4 => simpa using decodeAcquirer_refuses_iff
  | 5 => simpa using decodeDetector_refuses_iff
  | 6 => simpa using decodeOutput_refuses_iff
  | 7 => simpa using decodeBranch_refuses_iff
  | _ + 8 => exact iff_of_true (refuses_error _) (by omega)

/-! ### The opcode table -/

/-- Every row fixes the group and the `op` or `cond`, and its pattern is 0 below them. -/
theorem opcodeTable_fixes_high_byte :
    ∀ r ∈ opcodeTable, r.mask &&& 0xFF00 = 0xFF00 ∧ r.pattern &&& 0xFF00 = r.pattern := by decide

theorem opcodeTable_patterns_nodup : (opcodeTable.map OpcodeRow.pattern).Nodup := by decide

/-- The pattern of a row that covers a word is the word's high byte. -/
theorem pattern_eq_of_covers {r : OpcodeRow} {w : Word} (hr : r ∈ opcodeTable) (hw : r.covers w = true) :
    r.pattern = w &&& 0xFF00 := by
  obtain ⟨hmask, hpattern⟩ := opcodeTable_fixes_high_byte r hr
  have hfits : w &&& r.mask = r.pattern := eq_of_beq hw
  rw [← hpattern, ← hfits, BitVec.and_assoc, hmask]

/-- Settles O58: two rows that cover one word have its high byte as their pattern, and no two rows share a pattern. -/
theorem noWordMatchesTwoRows : Obligations.NoWordMatchesTwoRows := by
  intro w r q hr hq hrw hqw
  have hpatterns : r.pattern = q.pattern := (pattern_eq_of_covers hr hrw).trans (pattern_eq_of_covers hq hqw).symm
  exact List.inj_on_of_nodup_map opcodeTable_patterns_nodup hr hq hpatterns

end Sys2Proof.Machine
end

section
/-! PROOF. The system commands and the branches (40_sequencer.md R91 to R94, R98 to R105). -/

namespace Sys2Proof.Machine

/-! ### The system commands -/

/-- A pending source is deliverable in an unfaulted machine as soon as interrupts are enabled (60_exceptions.md
R190). -/
theorem intEnabled_of_enabling {s t : State} (hfault : t.fault = s.fault) (hpending : t.pending = s.pending)
    (hie : t.ie = true) (src : Source) (hnone : s.fault = none) (hsrc : s.pending src = true) :
    intEnabled src t = true :=
  (intEnabled_iff src t).mpr ⟨hfault.trans hnone, hie, hpending ▸ hsrc⟩

theorem seqEnabled_of_sleeping {s : State} (h : s.sleeping = true) : seqEnabled s = false := by
  simp [seqEnabled, h]

/-- Settles O8: the three commands are one write and the advance of `pc`. -/
theorem nopCliSei : Obligations.NopCliSei :=
  ⟨⟨rfl, fun _ => rfl⟩, ⟨rfl, fun _ => rfl⟩, rfl, fun _ => ⟨_, rfl, rfl, intEnabled_of_enabling rfl rfl rfl⟩⟩

/-- Settles O9: the machine is asleep with interrupts enabled, so SEQ is not enabled and a pending source is. -/
theorem sleepenEnablesAndSuspends : Obligations.SleepenEnablesAndSuspends :=
  ⟨rfl, fun _ => ⟨_, rfl, rfl, seqEnabled_of_sleeping rfl, intEnabled_of_enabling rfl rfl rfl⟩⟩

/-! ### The branches -/

/-- A branch word decodes by its `cond`, whatever its low byte (30_encoding.md R73). -/
theorem decode_wordOf_branch (cond : Nat) (low : BitVec 8) :
    decode (wordOf 7 cond low) = decodeBranch (cond % 16) low := by
  rw [decode, fieldGroup_wordOf, fieldOp_wordOf, fieldLow_wordOf]
  rfl

/-- A branch on a condition is one write of `pc`, to the target where the condition holds (40_sequencer.md R99). -/
theorem branchIf_of_iff {taken : Bool} {c : Prop} [Decidable c] (h : taken = true ↔ c) (off : Int) (s : State) :
    branchIf taken off s = s.setPc (if c then branchTarget s.pc off else s.pc + 1) := by
  rw [branchIf_eq]
  simp only [h]

/-- Settles O10: each branch is `branchIf` of its own condition. -/
theorem braBflagBnflag : Obligations.BraBflagBnflag := by
  intro low off s
  refine ⟨⟨decode_wordOf_branch 0 low, decode_wordOf_branch 1 low, decode_wordOf_branch 2 low⟩,
    branchTarget s.pc off, branchTarget_toNat s.pc off, rfl, ?bflag, ?bnflag⟩
  case bflag => exact congrArg Host.Outcome.next (branchIf_of_iff Iff.rfl off s)
  case bnflag => exact congrArg Host.Outcome.next (branchIf_of_iff (Iff.of_eq (Bool.not_eq_true' s.dflag)) off s)

theorem passAgain_iff (n : Count) (b : Bool) : passAgain n b = true ↔ n ≠ 0 ∧ b = false := by
  simp [passAgain]

theorem exec_bpass_of_cnt_unwritten {s : State} (hcnt : s.cnt = none) (off : Int) :
    exec (.bpass off) s = .next (s.setFault (.unwritten .cnt)) := by
  simp [exec, execBpass, hcnt]

theorem exec_bpass_of_cmp_unwritten {s : State} {n : Count} (hcnt : s.cnt = some n) (hcmp : s.cmp = none)
    (off : Int) : exec (.bpass off) s = .next (s.setFault (.unwritten .cmp)) := by
  simp [exec, execBpass, hcnt, hcmp]

theorem exec_bpass_of_written {s : State} {n : Count} {b : Bool} (hcnt : s.cnt = some n) (hcmp : s.cmp = some b)
    (off : Int) : exec (.bpass off) s = .next (branchIf (passAgain n b) off s) := by
  simp [exec, execBpass, hcnt, hcmp]

/-- Settles O11, by what is written. -/
theorem bpassBranchesOrFaults : Obligations.BpassBranchesOrFaults := by
  intro low off s
  refine ⟨decode_wordOf_branch 3 low, fun hcnt => exec_bpass_of_cnt_unwritten hcnt off,
    fun n hcnt hcmp => exec_bpass_of_cmp_unwritten hcnt hcmp off, fun n b hcnt hcmp => ?written⟩
  have hbranch := branchIf_of_iff (passAgain_iff n b) off s
  exact ⟨branchTarget s.pc off, branchTarget_toNat s.pc off,
    (exec_bpass_of_written hcnt hcmp off).trans (congrArg Host.Outcome.next hbranch)⟩

theorem subsampleAgain_iff (i : SubIndex) (samples : Nat) : subsampleAgain i samples = true ↔ i.toNat < samples :=
  decide_eq_true_iff

theorem exec_bsub_of_unwritten {s : State} (hk : s.k = none) (off : Int) :
    exec (.bsub off) s = .next (s.setFault (.unwritten .k)) := by
  simp [exec, execBsub, hk]

theorem exec_bsub_of_written {s : State} {i : SubIndex} (hk : s.k = some i) (off : Int) :
    exec (.bsub off) s = .next (branchIf (subsampleAgain i s.cfg.samples) off s) := by
  simp [exec, execBsub, hk]

/-- Settles O12, by whether `k` is written. -/
theorem bsubBranchesOrFaults : Obligations.BsubBranchesOrFaults := by
  intro low off s
  refine ⟨decode_wordOf_branch 4 low, fun hk => exec_bsub_of_unwritten hk off, fun i hk => ?written⟩
  have hbranch := branchIf_of_iff (subsampleAgain_iff i s.cfg.samples) off s
  exact ⟨branchTarget s.pc off, branchTarget_toNat s.pc off,
    (exec_bsub_of_written hk off).trans (congrArg Host.Outcome.next hbranch)⟩

end Sys2Proof.Machine
end

section
/-! PROOF. SEQ's turn (40_sequencer.md R90, R95, R96): the command at `pc`, the hold at a full sink, and the suspended
SEQ. -/

namespace Sys2Proof.Machine

/-- Settles O3: the turn runs the command that the word at `pc` decodes to. -/
theorem stepRunsTheDecodedCommand : Obligations.StepRunsTheDecodedCommand :=
  fun _ w _ hl hf hb hs ha hw hd => step_of_runsCommand hl hf ⟨ha, hb, hs, commandAtPc_eq_some_iff.mpr ⟨w, hw, hd⟩⟩

/-! ### SEQ's turn -/

theorem seqCommand_of_commandAtPc {s : State} {i : Instr} (hc : commandAtPc s = some i) : seqCommand s = exec i s := by
  obtain ⟨w, hw, hd⟩ := commandAtPc_eq_some_iff.mp hc
  simp [seqCommand, hw, hd]

theorem seqTurn_of_awake {s : State} (hb : s.booted = true) (hs : s.sleeping = false) : seqTurn s = seqCommand s := by
  simp [seqTurn, hb, hs]

theorem seqTurn_of_sleeping {s : State} (hb : s.booted = true) (hs : s.sleeping = true) : seqTurn s = .next s := by
  simp [seqTurn, hb, hs]

theorem step_of_seq {s : State} (hl : s.cfg.legal = true) (hf : s.fault = none) (ha : s.slot.agent = .seq) :
    step s = onNext State.passSlot (seqTurn s) := by
  simp [step, hl, hf, agentStep, ha]

theorem seqCommand_answers_next (s : State) : ∃ t, seqCommand s = .next t := by
  unfold seqCommand
  split
  · exact ⟨_, rfl⟩
  · split
    · exact ⟨_, rfl⟩
    · exact exec_answers_next _ _

/-! ### The suspended SEQ -/

/-- The turns of a suspended machine: SEQ holds, and no other agent writes `pc` or, but for a delivery, wakes SEQ. -/
theorem turn_of_sleeping {s u : State} (hb : s.booted = true) (hs : s.sleeping = true) (h : Turn s u) :
    u.pc = s.pc ∧ (s.slot.agent = .seq → u = s) ∧
      (u.sleeping = false → ∃ src, s.slot.agent = .int src ∧ intEnabled src s = true) := by
  have awake : ∀ {P : Prop}, s.sleeping = false → P := fun h => absurd (hs.symm.trans h) nofun
  have otherAgent : ∀ {a : Agent} {P : Prop}, s.slot.agent = a → a ≠ .seq → s.slot.agent = .seq → P :=
    fun ha hne hseq => absurd (ha.symm.trans hseq) hne
  cases h with
  | command hrun =>
    obtain ⟨-, -, hawake, -⟩ := hrun
    exact awake hawake
  | boot _ hunbooted => exact absurd (hb.symm.trans hunbooted) nofun
  | hold => exact ⟨rfl, fun _ => rfl, awake⟩
  | fetchFault _ _ hawake => exact awake hawake
  | illegalWord _ _ hawake => exact awake hawake
  | expire ha => exact ⟨rfl, otherAgent ha nofun, awake⟩
  | interrupt src ha henabled => exact ⟨by cases src <;> rfl, otherAgent ha nofun, fun _ => ⟨src, ha, henabled⟩⟩
  | request ha => exact ⟨rfl, otherAgent ha nofun, awake⟩

/-- Settles O46: the passing of the slot after the turn does not touch `pc` or `sleeping`. -/
theorem onlyADeliveryWakesSeq : Obligations.OnlyADeliveryWakesSeq := by
  intro s t hb hs h
  obtain ⟨u, hu, rfl⟩ := step_turn h
  obtain ⟨hpc, hseq, hwake⟩ := turn_of_sleeping hb hs hu
  exact ⟨hpc, fun ha => congrArg State.passSlot (hseq ha), hwake⟩

/-! ### The hold at a full sink -/

theorem emitRecord_hold {s : State} (h : s.slot.outReady = false) (e : TraceEvent) : emitRecord e s = s := by
  simp [emitRecord, h]

theorem emitRecord_ready {s : State} (h : s.slot.outReady = true) (e : TraceEvent) :
    emitRecord e s = advancePc (s.logEvent e) := by
  simp [emitRecord, h]

/-- A command with a record emits it. -/
theorem exec_of_recordAtPc {s : State} {e : TraceEvent} (he : recordAtPc s = some e) :
    ∃ i, commandAtPc s = some i ∧ exec i s = .next (emitRecord e s) := by
  rcases emitting_of_recordAtPc_isSome (by rw [he]; rfl) with hc | hc
  · refine ⟨_, hc, ?_⟩
    rw [recordAtPc_of_emitev hc] at he
    have hevent := (touchRecord_isSome_iff s.event).mp (by rw [he]; rfl)
    rw [hevent] at he
    obtain rfl := Option.some.inj he
    simp [exec, execEmitev, hevent]
  · refine ⟨_, hc, ?_⟩
    obtain ⟨r, lo, hi, hr, hlo, hhi, hrange, rfl⟩ := (recordAtPc_eq_some_iff_of_emitdg hc e).mp he
    simp [exec, execEmitdg, hr, hlo, hhi, (diagnosticInRange_iff r lo hi).mpr hrange]

/-- A booted SEQ that is not enabled leaves the state in its turn: it is asleep, or its record is not taken. -/
theorem seqTurn_of_not_enabled {s : State} (hf : s.fault = none) (hb : s.booted = true) (h : seqEnabled s = false) :
    seqTurn s = .next s := by
  cases hs : s.sleeping with
  | true => exact seqTurn_of_sleeping hb hs
  | false =>
    have hheld : ¬(s.slot.outReady = true ∨ recordAtPc s = none) := fun hfree =>
      absurd ((seqEnabled_iff s).mpr ⟨hb, hf, hs, hfree⟩) (by rw [h]; nofun)
    rw [not_or, Bool.not_eq_true, ← ne_eq, Option.ne_none_iff_exists'] at hheld
    obtain ⟨hfull, e, he⟩ := hheld
    obtain ⟨i, hc, hexec⟩ := exec_of_recordAtPc he
    rw [seqTurn_of_awake hb hs, seqCommand_of_commandAtPc hc, hexec, emitRecord_hold hfull]

/-! ### The command that is performed -/

/-- `t` has a fault, or `pc` names the command that follows the one at `s`. -/
def FaultsOrAdvances (s t : State) : Prop := t.fault ≠ none ∨ t.pc = s.pc + 1

/-- A command that is no branch faults or goes on to the next one, where no full sink holds its record: by the checks
it makes, and by computation for a command that makes none. -/
theorem exec_faultsOrAdvances {s : State} {i : Instr} (hc : commandAtPc s = some i) (hi : offsetOperandOf i = none)
    (hfree : s.slot.outReady = true ∨ recordAtPc s = none) : ∃ t, exec i s = .next t ∧ FaultsOrAdvances s t := by
  have hfault : ∀ f, FaultsOrAdvances s (s.setFault f) := fun _ => .inl nofun
  have hemit : ∀ e, recordAtPc s = some e → FaultsOrAdvances s (emitRecord e s) := fun e he => by
    have hready := hfree.resolve_right (by rw [he]; nofun)
    rw [emitRecord_ready hready]
    exact .inr rfl
  cases i with
  | bra | bflag | bnflag | bpass | bsub => cases hi
  | chg p =>
    exact ⟨_, rfl, of_withKickRegister hfault
      (of_chargeDrive (P := fun u => FaultsOrAdvances s (advancePc u)) _ p (.inr rfl) (.inr rfl))⟩
  | cdelay =>
    exact ⟨_, rfl, of_chargeDelayEvent (P := fun u => FaultsOrAdvances s (advancePc u)) (.inr rfl) fun _ => .inr rfl⟩
  | cntinc | rawset | push => exact ⟨_, rfl, of_withWritten hfault fun _ _ => .inr rfl⟩
  | eval => exact ⟨_, rfl, of_withWritten hfault fun _ _ => of_withWritten hfault fun _ _ => .inr rfl⟩
  | accadd =>
    refine ⟨_, rfl, of_withWritten hfault fun _ _ => of_withWritten hfault fun _ _ => of_withWritten hfault
      fun _ _ => ?_⟩
    split
    · exact hfault _
    · exact .inr rfl
  | avg =>
    refine ⟨_, rfl, of_withWritten hfault fun _ _ => ?_⟩
    split
    · exact hfault _
    · exact .inr rfl
  | emitev =>
    refine ⟨_, rfl, of_withWritten hfault fun e he => ?_⟩
    cases e with
    | true => exact hemit .touch (by rw [recordAtPc_of_emitev hc, he]; rfl)
    | false => exact .inr rfl
  | emitdg =>
    refine ⟨_, rfl, of_withWritten hfault fun r hr => of_withWritten hfault fun lo hlo => of_withWritten hfault
      fun hi hhi => ?_⟩
    split
    · rename_i hrange
      exact hemit _ ((recordAtPc_eq_some_iff_of_emitdg hc _).mpr
        ⟨r, lo, hi, hr, hlo, hhi, (diagnosticInRange_iff r lo hi).mp hrange, rfl⟩)
    · exact hfault _
  | _ => exact ⟨_, rfl, .inr rfl⟩

/-- Settles O47: a SEQ that is not enabled holds, and one that is performs its command, which no full sink holds. -/
theorem seqHoldsWhereItIsNotEnabled : Obligations.SeqHoldsWhereItIsNotEnabled := by
  intro s hl hf hb ha
  refine ⟨fun hdisabled => ?holds, fun henabled => ?performs⟩
  case holds => rw [step_of_seq hl hf ha, seqTurn_of_not_enabled hf hb hdisabled, onNext_next]
  case performs =>
    obtain ⟨-, -, hs, hfree⟩ := (seqEnabled_iff s).mp henabled
    obtain ⟨t, ht⟩ := seqCommand_answers_next s
    refine ⟨t, ht, by rw [step_of_seq hl hf ha, seqTurn_of_awake hb hs, ht, onNext_next], fun hnone i hc => ?_⟩
    by_cases hi : offsetOperandOf i = none
    · obtain ⟨u, hu, hadvance⟩ := exec_faultsOrAdvances hc hi hfree
      rw [seqCommand_of_commandAtPc hc] at ht
      obtain rfl := Host.Outcome.next.inj (hu.symm.trans ht)
      exact .inl (hadvance.resolve_left (not_not_intro hnone))
    · exact .inr hi

end Sys2Proof.Machine
end

section
/-! PROOF. The decoder against the opcode table (40_sequencer.md R97, 30_encoding.md R77): the rows by their format, and
the word that a row of each format covers. -/

namespace Sys2Proof.Machine

/-! ### The rows by their format -/

/-- The commands of format P, as functions of their pin (30_encoding.md R72, R77). -/
def pinForms : List (Pin → Instr) := [.drvl, .drvh, .floatPin, .pullup, .chg]

/-- The commands of format B, as functions of their offset (30_encoding.md R73, R77). -/
def branchForms : List (Int → Instr) := [.bra, .bflag, .bnflag, .bpass, .bsub]

/-- Every row is the row of a command: a format-N row fixes every bit, a format-P row leaves the `p` bit open and a
format-B row the low byte. -/
theorem opcodeTable_formats : ∀ r ∈ opcodeTable,
    (∃ i ∈ plainCommands, r = ⟨i.mnemonic, encode i, 0xFFFF⟩) ∨
    (∃ f ∈ pinForms, r = ⟨(f .A).mnemonic, encode (f .A), 0xFFFE⟩) ∨
    (∃ f ∈ branchForms, r = ⟨(f 0).mnemonic, encode (f 0), 0xFF00⟩) := by
  decide

theorem plainCommands_spec : ∀ i ∈ plainCommands,
    i.wellFormed = true ∧ pinOperandOf i = none ∧ offsetOperandOf i = none := by
  decide

/-- A format-P command holds its pin in bit 0 of its word, and nothing else depends on the pin. -/
theorem pinForms_spec : ∀ f ∈ pinForms, ∀ b : Bool,
    encode (f (pinOfBit b)) = encode (f .A) ||| (BitVec.ofBool b).setWidth 16 ∧
    (f (pinOfBit b)).wellFormed = true ∧ (f (pinOfBit b)).mnemonic = (f .A).mnemonic ∧
    pinOperandOf (f (pinOfBit b)) = some (pinOfBit b) ∧ offsetOperandOf (f (pinOfBit b)) = none := by
  decide

/-- A format-B command holds its offset in the low byte of its word, and nothing else depends on the offset. -/
theorem branchForms_spec {f : Int → Instr} (hf : f ∈ branchForms) : ∃ cond : Nat, ∀ off : Int,
    encode (f off) = wordOf 7 cond (BitVec.ofInt 8 off) ∧ (f off).wellFormed = offsetFits off ∧
    (f off).mnemonic = (f 0).mnemonic ∧ pinOperandOf (f off) = none ∧ offsetOperandOf (f off) = some off := by
  simp only [branchForms, List.mem_cons, List.not_mem_nil, or_false] at hf
  rcases hf with rfl | rfl | rfl | rfl | rfl
  · exact ⟨0, fun _ => ⟨rfl, rfl, rfl, rfl, rfl⟩⟩
  · exact ⟨1, fun _ => ⟨rfl, rfl, rfl, rfl, rfl⟩⟩
  · exact ⟨2, fun _ => ⟨rfl, rfl, rfl, rfl, rfl⟩⟩
  · exact ⟨3, fun _ => ⟨rfl, rfl, rfl, rfl, rfl⟩⟩
  · exact ⟨4, fun _ => ⟨rfl, rfl, rfl, rfl, rfl⟩⟩

/-! ### The word that a row covers -/

/-- A word is its bits above bit 0, and its bit 0. -/
theorem or_bit0_eq (w : Word) : (w &&& 0xFFFE) ||| (BitVec.ofBool (w.getLsbD 0)).setWidth 16 = w := by
  rw [← BitVec.and_one_eq_setWidth_ofBool_getLsbD, ← BitVec.and_or_distrib_left]
  exact BitVec.and_allOnes

/-- A word with the high byte of another one is that one with another low byte. -/
theorem eq_append_of_and_high {w : Word} {hi low : BitVec 8} (h : w &&& 0xFF00 = hi ++ low) :
    w = hi ++ fieldLow w := by
  have hhigh : w.extractLsb' 8 8 = hi := by
    calc w.extractLsb' 8 8 = w.extractLsb' 8 8 &&& BitVec.extractLsb' 8 8 0xFF00 := BitVec.and_allOnes.symm
      _ = (w &&& 0xFF00).extractLsb' 8 8 := BitVec.extractLsb'_and.symm
      _ = hi := by rw [h, BitVec.extractLsb'_append_eq_left]
  calc w = w.extractLsb' 0 16 := BitVec.extractLsb'_eq_self.symm
    _ = w.extractLsb' 8 8 ++ fieldLow w :=
        (BitVec.extractLsb'_append_extractLsb'_eq_extractLsb' (len₂ := 8) (Nat.zero_add 8).symm).symm
    _ = hi ++ fieldLow w := by rw [hhigh]

/-- `decode` gives the command of the row `r` with the operands that the word holds (40_sequencer.md R97). -/
def DecodesByRow (r : OpcodeRow) (w : Word) : Prop :=
  ∃ i, decode w = .ok i ∧ i.mnemonic = r.mnemonic ∧
    (∀ p, pinOperandOf i = some p → p = pinOfBit (w.getLsbD 0)) ∧
    (∀ off, offsetOperandOf i = some off → off = (fieldLow w).toInt)

theorem decodesByRow_of_covers {r : OpcodeRow} {w : Word} (hr : r ∈ opcodeTable) (hw : r.covers w = true) :
    DecodesByRow r w := by
  have hfits : w &&& r.mask = r.pattern := eq_of_beq hw
  rcases opcodeTable_formats r hr with ⟨i, hi, rfl⟩ | ⟨f, hf, rfl⟩ | ⟨f, hf, rfl⟩
  · obtain ⟨hwf, hpin, hoff⟩ := plainCommands_spec i hi
    have hword : encode i = w := hfits.symm.trans BitVec.and_allOnes
    exact ⟨i, decode_of_encodesAs ⟨hword, hwf⟩, rfl, hpin ▸ nofun, hoff ▸ nofun⟩
  · obtain ⟨hencode, hwf, hname, hpin, hoff⟩ := pinForms_spec f hf (w.getLsbD 0)
    have hword : encode (f (pinOfBit (w.getLsbD 0))) = w := by
      rw [hencode, show encode (f .A) = w &&& 0xFFFE from hfits.symm, or_bit0_eq]
    exact ⟨_, decode_of_encodesAs ⟨hword, hwf⟩, hname, fun p hp => Option.some.inj (hp.symm.trans hpin), hoff ▸ nofun⟩
  · obtain ⟨cond, hspec⟩ := branchForms_spec hf
    obtain ⟨hpattern, -⟩ := hspec 0
    obtain ⟨hencode, hwf, hname, hpin, hoff⟩ := hspec (fieldLow w).toInt
    have hword : encode (f (fieldLow w).toInt) = w := by
      rw [hencode, BitVec.ofInt_toInt]
      exact (eq_append_of_and_high (hfits.trans hpattern)).symm
    exact ⟨_, decode_of_encodesAs ⟨hword, hwf.trans (offsetFits_toInt _)⟩, hname, hpin ▸ nofun,
      fun off ho => Option.some.inj (ho.symm.trans hoff)⟩

/-! ### The row of a command -/

section
open Laws.EncodingFitsRow

/-- The word of a command fits the command's row of the opcode table, for every command. -/
theorem encode_fitsRow : ∀ i : Instr, Laws.EncodingFitsRow.Statement i
  | .nop => nop | .cli => cli | .sei => sei | .sleepen => sleepen
  | .drvl p => drvl p | .drvh p => drvh p | .floatPin p => floatPin p | .pullup p => pullup p
  | .drvl2 => drvl2 | .chg p => chg p | .cmprd => cmprd | .cdelay => cdelay
  | .dtstart => dtstart | .dtstop => dtstop
  | .cntclr => cntclr | .cntinc => cntinc | .rawset => rawset
  | .accclr => accclr | .accadd => accadd | .avg => avg
  | .push => push | .scan => scan | .eval => eval
  | .emitev => emitev | .emitdg => emitdg
  | .bra off => bra off | .bflag off => bflag off | .bnflag off => bnflag off
  | .bpass off => bpass off | .bsub off => bsub off

end

/-- A word that decodes is covered by the row of its command. -/
theorem covers_of_decode {w : Word} {i : Instr} (h : decode w = .ok i) : ∃ r ∈ opcodeTable, r.covers w = true := by
  obtain ⟨rfl, -⟩ := encodeOfDecode w i h
  obtain ⟨r, hr, -, hcovers⟩ := encode_fitsRow i
  exact ⟨r, hr, hcovers⟩

/-- Settles O57: the covering row gives the command, and a word that decodes has one. -/
theorem decodeFollowsTheTable : Obligations.DecodeFollowsTheTable := by
  intro w
  refine ⟨fun r hr hw => decodesByRow_of_covers hr hw, fun hnone => ?refused⟩
  cases hd : decode w with
  | error e => exact ⟨e, rfl⟩
  | ok i =>
    obtain ⟨r, hr, hcovers⟩ := covers_of_decode hd
    exact absurd hcovers (by simp [hnone r hr])

end Sys2Proof.Machine
end

section
/-! PROOF. The sense network (41_sense_network.md R110 to R121): a driven pin, the charge drive under each kick policy,
the comparator sample and the charge delay. -/

namespace Sys2Proof.Machine

/-! ### The pin commands -/

/-- The word of a format-P command is its word for pin A with the pin in bit 0 (30_encoding.md R72, R74). -/
theorem decode_pinWord {f : Pin → Instr} (hf : f ∈ pinForms) (p : Pin) :
    decode (encode (f .A) ||| if p = .A then 0 else 1) = .ok (f p) := by
  cases p with
  | A =>
    obtain ⟨hword, hwf, -⟩ := pinForms_spec f hf false
    exact decode_of_encodesAs ⟨hword, hwf⟩
  | B =>
    obtain ⟨hword, hwf, -⟩ := pinForms_spec f hf true
    exact decode_of_encodesAs ⟨hword, hwf⟩

theorem drivePin_pinWritten (p : Pin) (m : PinMode) (s : State) :
    PinWritten s (advancePc (drivePin p m s)) p m [.pin p m] :=
  ⟨drivePin_pin_same p m s, fun _ hq => drivePin_pin_other m s hq, rfl⟩

/-- Settles O13: each of the four commands is one `drivePin` and the advance of `pc`. -/
theorem pinCommandsDriveOnePin : Obligations.PinCommandsDriveOnePin := by
  intro s p
  exact
    ⟨ ⟨decode_pinWord (f := .drvl) (by simp [pinForms]) p, _, rfl, drivePin_pinWritten p .driveLow s⟩,
      ⟨decode_pinWord (f := .drvh) (by simp [pinForms]) p, _, rfl, drivePin_pinWritten p .driveHigh s⟩,
      ⟨decode_pinWord (f := .floatPin) (by simp [pinForms]) p, _, rfl, drivePin_pinWritten p .hiz s⟩,
      ⟨decode_pinWord (f := .pullup) (by simp [pinForms]) p, _, rfl, drivePin_pinWritten p .pullup s⟩⟩

/-! ### Two drives in one step -/

/-- Two drives make two events, in the order of the drives (41_sense_network.md R115, R116). -/
theorem drivePin_drivePin (p q : Pin) (m n : PinMode) (s : State) :
    drivePin q n (drivePin p m s) =
      { (s.setPin p m).setPin q n with trace := s.trace ++ [.pin p m, .pin q n] } := by
  simp [State.logEvent, State.setPin]

/-- Settles O14: the two drives of `DRVL2` are of different pins, so both modes stand. -/
theorem drvl2DrivesBothPinsLow : Obligations.Drvl2DrivesBothPinsLow := by
  refine ⟨rfl, ⟨_, rfl⟩, fun s => ?_⟩
  exact congrArg (Host.Outcome.next ∘ advancePc) (drivePin_drivePin .A .B .driveLow .driveLow s)

/-! ### The charge drive -/

/-- The charge drive ends with the pin high, and the events tell the hard form from the resistive one
(41_sense_network.md R116). -/
theorem chargeDrive_pinWritten (hard : Bool) (p : Pin) (s : State) :
    PinWritten s (advancePc (chargeDrive hard p s)) p .driveHigh
      (if hard then [.pin p .driveHigh] else [.pin p .pullup, .pin p .driveHigh]) := by
  cases hard with
  | true => exact drivePin_pinWritten p .driveHigh s
  | false =>
    refine ⟨drivePin_pin_same p .driveHigh _, fun q hq => ?other, ?frame⟩
    case other => exact (drivePin_pin_other .driveHigh _ hq).trans (drivePin_pin_other .pullup s hq)
    case frame => exact congrArg advancePc (drivePin_drivePin p p .pullup .driveHigh s)

theorem withKickRegister_firstPass {s : State} (h : s.cfg.kickPolicy = .firstPass) (go : State) :
    withKickRegister s go = withWritten .cnt s.cnt s fun _ => go := by
  simp [withKickRegister, h]

theorem withKickRegister_firstSubsample {s : State} (h : s.cfg.kickPolicy = .firstSubsample) (go : State) :
    withKickRegister s go = withWritten .k s.k s fun _ => go := by
  simp [withKickRegister, h]

theorem withKickRegister_alwaysHard {s : State} (h : s.cfg.kickPolicy = .alwaysHard) (go : State) :
    withKickRegister s go = go := by
  simp [withKickRegister, h]

/-- `CHG` where the register its policy reads is unwritten. -/
theorem exec_chg_of_unwritten {s : State} {r : RegName} (h : ∀ go, withKickRegister s go = s.setFault (.unwritten r))
    (p : Pin) : exec (.chg p) s = .next (s.setFault (.unwritten r)) :=
  congrArg Host.Outcome.next (h _)

/-- `CHG` where its policy reads no unwritten register, with `c` for the policy's `hard()` (41_sense_network.md
R117). -/
theorem exec_chg_of_written {s : State} {c : Prop} [Decidable c] (hgo : ∀ go, withKickRegister s go = go)
    (hhard : hardDrive s.cfg.kickPolicy s.cnt s.k = true ↔ c) (p : Pin) :
    ∃ t, exec (.chg p) s = .next t ∧ PinWritten s t p .driveHigh
      (if c then [.pin p .driveHigh] else [.pin p .pullup, .pin p .driveHigh]) := by
  refine ⟨_, congrArg Host.Outcome.next (hgo _), ?_⟩
  simpa only [hhard] using chargeDrive_pinWritten (hardDrive s.cfg.kickPolicy s.cnt s.k) p s

/-- Settles O15: the kick policy says which register is read and when the drive is hard. -/
theorem chgDrivesHighByPolicy : Obligations.ChgDrivesHighByPolicy := by
  intro s p
  refine ⟨decode_pinWord (f := .chg) (by simp [pinForms]) p, fun hpolicy hcnt => ?passUnwritten,
    fun hpolicy hk => ?subsampleUnwritten, fun hpolicy n hcnt => ?pass, fun hpolicy i hk => ?subsample,
    fun hpolicy => ?always⟩
  case passUnwritten =>
    exact exec_chg_of_unwritten (fun go => by rw [withKickRegister_firstPass hpolicy, hcnt, withWritten_none]) p
  case subsampleUnwritten =>
    exact exec_chg_of_unwritten (fun go => by rw [withKickRegister_firstSubsample hpolicy, hk, withWritten_none]) p
  case pass =>
    exact exec_chg_of_written (fun go => by rw [withKickRegister_firstPass hpolicy, hcnt, withWritten_some])
      (by simp [hardDrive, hpolicy, hcnt]) p
  case subsample =>
    exact exec_chg_of_written (fun go => by rw [withKickRegister_firstSubsample hpolicy, hk, withWritten_some])
      (by simp [hardDrive, hpolicy, hk]) p
  case always =>
    exact exec_chg_of_written (c := True) (withKickRegister_alwaysHard hpolicy) (by simp [hardDrive, hpolicy]) p

/-! ### The comparator sample and the charge delay -/

/-- Settles O16: `CMPRD` writes the answer that the slot holds. -/
theorem cmprdSamplesTheComparator : Obligations.CmprdSamplesTheComparator := by
  refine ⟨rfl, fun s b hb => ?_⟩
  rw [← hb]
  rfl

theorem chargeDelayEvent_zero {s : State} (h : s.cfg.chargeDelay = .zero) : chargeDelayEvent s = s := by
  simp [chargeDelayEvent, h]

theorem chargeDelayEvent_cal7 {s : State} (h : s.cfg.chargeDelay = .cal7) :
    chargeDelayEvent s = s.logEvent (.delay s.cfg.delayCycles) := by
  simp [chargeDelayEvent, h]

theorem delayCycles_of_legal {c : Config} (h : c.legal = true) : c.delayCycles = 7 := by
  simp only [Config.legal, Config.timingLegal, Bool.and_eq_true, decide_eq_true_eq] at h
  obtain ⟨-, -, -, ⟨hdelay, -⟩, -⟩ := h
  exact hdelay

/-- Settles O17, by the strategy. -/
theorem cdelayTracesTheDelay : Obligations.CdelayTracesTheDelay := by
  refine ⟨rfl, fun s => ⟨fun hzero => ?zero, fun hcal7 => ?cal7, delayCycles_of_legal⟩⟩
  case zero => exact congrArg (Host.Outcome.next ∘ advancePc) (chargeDelayEvent_zero hzero)
  case cal7 => exact congrArg (Host.Outcome.next ∘ advancePc) (chargeDelayEvent_cal7 hcal7)

end Sys2Proof.Machine
end

section
/-! PROOF. The discharge timer (42_discharge_timer.md R125 to R133): its commands and its turn, who writes the flag of
the window and the fired bit, and the wake-up of a suspended SEQ on a fair run (60_exceptions.md R196, R203). -/

namespace Sys2Proof.Machine

/-! ### The timer's commands -/

/-- A stopped countdown has no expiry to make (42_discharge_timer.md R126). -/
theorem tmrEnabled_of_stopped {s : State} (h : s.trun = false) : tmrEnabled s = false := by
  simp [tmrEnabled, h]

/-- An expiry is made once in a window (42_discharge_timer.md R132). -/
theorem tmrEnabled_of_fired {s : State} (h : s.tfired = true) : tmrEnabled s = false := by
  simp [tmrEnabled, h]

/-- Settles O19: `DTSTART` is the four writes of `armWindow` and the advance of `pc`. -/
theorem dtstartOpensTheWindow : Obligations.DtstartOpensTheWindow :=
  ⟨rfl, fun _ => rfl⟩

/-- Settles O20: `DTSTOP` writes `trun`, which TMR's step reads and a delivery does not. -/
theorem dtstopStopsTheCountdown : Obligations.DtstopStopsTheCountdown :=
  ⟨rfl, fun _ => ⟨_, rfl, rfl, tmrEnabled_of_stopped rfl, rfl⟩⟩

/-! ### The turns of TMR and INT -/

theorem tmrTurn_of_enabled {s : State} (h : tmrEnabled s = true) : tmrTurn s = s.expire := if_pos h

theorem tmrTurn_of_not_enabled {s : State} (h : tmrEnabled s = false) : tmrTurn s = s := by
  simp [tmrTurn, h]

theorem intTurn_of_enabled {src : Source} {s : State} (h : intEnabled src s = true) :
    intTurn src s = takeInterrupt src s := if_pos h

theorem step_of_tmr {s : State} (hl : s.cfg.legal = true) (hf : s.fault = none) (ha : s.slot.agent = .tmr) :
    step s = .next (tmrTurn s).passSlot := by
  simp [step, hl, hf, agentStep, ha]

theorem step_of_int {s : State} {src : Source} (hl : s.cfg.legal = true) (hf : s.fault = none)
    (ha : s.slot.agent = .int src) : step s = .next (intTurn src s).passSlot := by
  simp [step, hl, hf, agentStep, ha]

/-- An enabled TMR whose turn it is expires. -/
theorem step_eq_expire {s t : State} (h : step s = .next t) (ha : s.slot.agent = .tmr) (he : tmrEnabled s = true) :
    t = s.expire.passSlot := by
  obtain ⟨hl, hf, -⟩ := step_eq_next h
  rw [step_of_tmr hl hf ha, tmrTurn_of_enabled he] at h
  exact (Host.Outcome.next.inj h).symm

/-- A deliverable source whose turn it is is delivered. -/
theorem step_eq_delivery {s t : State} {src : Source} (h : step s = .next t) (ha : s.slot.agent = .int src)
    (he : intEnabled src s = true) : t = (takeInterrupt src s).passSlot := by
  obtain ⟨hl, hf, -⟩ := step_eq_next h
  rw [step_of_int hl hf ha, intTurn_of_enabled he] at h
  exact (Host.Outcome.next.inj h).symm

/-- Settles O21, by whether TMR is enabled. -/
theorem timerExpiryStep : Obligations.TimerExpiryStep := by
  intro s hl hf ha
  rw [step_of_tmr hl hf ha]
  refine ⟨fun hrun hfired => ?expires, fun hidle => ?passes⟩
  case expires =>
    rw [tmrTurn_of_enabled ((tmrEnabled_iff s).mpr ⟨hf, hrun, hfired⟩)]
    rfl
  case passes => rw [tmrTurn_of_not_enabled (hidle.elim tmrEnabled_of_stopped tmrEnabled_of_fired)]

/-! ### Who writes the flag of the window and the fired bit -/

/-- `t` has the flag of the window and the fired bit of `s`. -/
def SameWindow (s t : State) : Prop := t.dflag = s.dflag ∧ t.tfired = s.tfired

/-- Every command but `DTSTART` leaves the two bits alone: by the operations that choose between two results, and by
computation for a command with one. -/
theorem exec_sameWindow {i : Instr} (hi : i ≠ .dtstart) (s : State) : ∃ t, exec i s = .next t ∧ SameWindow s t := by
  have hfault : ∀ f, SameWindow s (s.setFault f) := fun _ => ⟨rfl, rfl⟩
  have hbranch : ∀ taken off, SameWindow s (branchIf taken off s) :=
    fun taken off => of_branchIf taken off fun _ => ⟨rfl, rfl⟩
  have hemit : ∀ e, SameWindow s (emitRecord e s) := fun _ => of_emitRecord ⟨rfl, rfl⟩ ⟨rfl, rfl⟩
  cases i with
  | dtstart => exact absurd rfl hi
  | chg p =>
    exact ⟨_, rfl, of_withKickRegister hfault
      (of_chargeDrive (P := fun u => SameWindow s (advancePc u)) _ p ⟨rfl, rfl⟩ ⟨rfl, rfl⟩)⟩
  | cdelay =>
    exact ⟨_, rfl, of_chargeDelayEvent (P := fun u => SameWindow s (advancePc u)) ⟨rfl, rfl⟩ fun _ => ⟨rfl, rfl⟩⟩
  | cntinc | rawset | push => exact ⟨_, rfl, of_withWritten hfault fun _ _ => ⟨rfl, rfl⟩⟩
  | eval => exact ⟨_, rfl, of_withWritten hfault fun _ _ => of_withWritten hfault fun _ _ => ⟨rfl, rfl⟩⟩
  | accadd =>
    exact ⟨_, rfl, of_withWritten hfault fun _ _ => of_withWritten hfault fun _ _ => of_withWritten hfault
      fun _ _ => iteInduction (fun _ => hfault _) fun _ => ⟨rfl, rfl⟩⟩
  | avg =>
    exact ⟨_, rfl, of_withWritten hfault fun _ _ => iteInduction (fun _ => hfault _) fun _ => ⟨rfl, rfl⟩⟩
  | emitev =>
    exact ⟨_, rfl, of_withWritten hfault fun _ _ => iteInduction (fun _ => hemit _) fun _ => ⟨rfl, rfl⟩⟩
  | emitdg =>
    exact ⟨_, rfl, of_withWritten hfault fun _ _ => of_withWritten hfault fun _ _ => of_withWritten hfault
      fun _ _ => iteInduction (fun _ => hemit _) fun _ => hfault _⟩
  | bra off | bflag off | bnflag off => exact ⟨_, rfl, hbranch _ off⟩
  | bpass off =>
    exact ⟨_, rfl, of_withWritten hfault fun _ _ => of_withWritten hfault fun _ _ => hbranch _ off⟩
  | bsub off => exact ⟨_, rfl, of_withWritten hfault fun _ _ => hbranch _ off⟩
  | _ => exact ⟨_, rfl, rfl, rfl⟩

/-- What a turn can do to the two bits: keep them, open the window by `DTSTART`, fire, or close the window by the
delivery of the expiry. -/
theorem turn_window {s u : State} (h : Turn s u) :
    SameWindow s u ∨
    (RunsCommand s .dtstart ∧ u.dflag = true ∧ u.tfired = false) ∨
    (u.dflag = s.dflag ∧ u.tfired = true) ∨
    (s.slot.agent = .int .timer ∧ intEnabled .timer s = true ∧ u.dflag = false ∧ u.tfired = s.tfired) := by
  cases h with
  | @command i _ hrun hexec =>
    by_cases hi : i = .dtstart
    · subst hi
      obtain rfl := Host.Outcome.next.inj hexec
      exact .inr (.inl ⟨hrun, rfl, rfl⟩)
    · obtain ⟨t, ht, hsame⟩ := exec_sameWindow hi s
      obtain rfl := Host.Outcome.next.inj (ht.symm.trans hexec)
      exact .inl hsame
  | expire => exact .inr (.inr (.inl ⟨rfl, rfl⟩))
  | interrupt src ha henabled =>
    cases src with
    | timer => exact .inr (.inr (.inr ⟨ha, henabled, rfl, rfl⟩))
    | other => exact .inl ⟨rfl, rfl⟩
  | _ => exact .inl ⟨rfl, rfl⟩

/-- Settles O22: of the turns, `DTSTART` alone can set the flag and the timer's delivery alone can clear it. -/
theorem dischargeFlagHasTwoWriters : Obligations.DischargeFlagHasTwoWriters := by
  refine ⟨fun _ => rfl, fun s t h hs ht => ?closes, fun s t h hs ht => ?opens⟩
  all_goals
    obtain ⟨u, hu, rfl⟩ := step_turn h
    rw [State.passSlot_dflag] at ht
  case closes =>
    rcases turn_window hu with ⟨hflag, -⟩ | ⟨-, hflag, -⟩ | ⟨hflag, -⟩ | ⟨ha, henabled, -, -⟩
    · simp [hs, hflag] at ht
    · simp [hflag] at ht
    · simp [hs, hflag] at ht
    · exact ⟨ha, henabled⟩
  case opens =>
    rcases turn_window hu with ⟨hflag, -⟩ | ⟨hrun, -, -⟩ | ⟨hflag, -⟩ | ⟨-, -, hflag, -⟩
    · simp [hs, hflag] at ht
    · exact hrun
    · simp [hs, hflag] at ht
    · simp [hflag] at ht

/-- Settles O23: of the turns, `DTSTART` alone clears the fired bit. -/
theorem oneExpiryPerWindow : Obligations.OneExpiryPerWindow := by
  refine fun s t h hs => ⟨tmrEnabled_of_fired hs, fun ht => ?_⟩
  obtain ⟨u, hu, rfl⟩ := step_turn h
  rw [State.passSlot_tfired] at ht
  rcases turn_window hu with ⟨-, hfired⟩ | ⟨hrun, -, -⟩ | ⟨-, hfired⟩ | ⟨-, -, -, hfired⟩
  · simp [hs, hfired] at ht
  · exact hrun
  · simp [hfired] at ht
  · simp [hs, hfired] at ht

/-! ### The wake-up of a suspended SEQ -/

/-- SEQ is suspended with interrupts enabled, and the expiry that will wake it is pending or still to come. -/
structure Waiting (s : State) : Prop where
  booted : s.booted = true
  sleeping : s.sleeping = true
  enabled : s.ie = true
  expiry : s.tpend = true ∨ s.trun = true ∧ s.tfired = false

/-- A window that has fired has its expiry pending, so a SEQ suspended in an open window waits for one. -/
theorem waiting_of_open_window {s : State} (htimer : s.TimerOk) (hsleep : s.SleepOk) (hs : s.sleeping = true)
    (hopen : s.dflag = true) (h : s.trun = true ∨ s.tpend = true) : Waiting s := by
  obtain ⟨hie, hb⟩ := hsleep hs
  obtain ⟨-, -, hpend⟩ := htimer
  refine ⟨hb, hs, hie, h.elim (fun hrun => ?_) .inl⟩
  cases hfired : s.tfired with
  | true => exact .inl (hpend hopen hfired)
  | false => exact .inr ⟨hrun, rfl⟩

/-- The turns of a waiting machine: it is woken, or it waits on and a pending expiry stays pending. -/
theorem turn_of_waiting {s u : State} (hw : Waiting s) (h : Turn s u) :
    u.sleeping = false ∨ Waiting u ∧ (s.tpend = true → u.tpend = true) := by
  have awake : ∀ {P : Prop}, s.sleeping = false → P := fun h => absurd (hw.sleeping.symm.trans h) nofun
  cases h with
  | command hrun =>
    obtain ⟨-, -, hawake, -⟩ := hrun
    exact awake hawake
  | boot _ hunbooted => exact absurd (hw.booted.symm.trans hunbooted) nofun
  | fetchFault _ _ hawake | illegalWord _ _ hawake => exact awake hawake
  | hold => exact .inr ⟨hw, id⟩
  | expire => exact .inr ⟨{ hw with expiry := .inl rfl }, fun _ => rfl⟩
  | interrupt => exact .inl rfl
  | request => exact .inr ⟨{ hw with }, id⟩

theorem step_of_waiting {s t : State} (hw : Waiting s) (h : step s = .next t) :
    t.pc = s.pc ∧ (t.sleeping = false ∨ Waiting t ∧ (s.tpend = true → t.tpend = true)) := by
  obtain ⟨hpc, -, -⟩ := onlyADeliveryWakesSeq s t hw.booted hw.sleeping h
  obtain ⟨u, hu, rfl⟩ := step_turn h
  exact ⟨hpc, (turn_of_waiting hw hu).imp_right fun ⟨hu, hpend⟩ => ⟨{ hu with }, hpend⟩⟩

/-- The fairness of TMR: a machine that waits for ever has its expiry pending at some time, because TMR is enabled
until then. -/
theorem exists_pending_of_waiting {r : Nat → State} {n : Nat} (hrun : IsRun r) (htmr : TmrFair r)
    (hw : ∀ m, n ≤ m → Waiting (r m)) : ∃ m, n ≤ m ∧ (r m).tpend = true := by
  by_contra! hnever
  have henabled : ∀ m, n ≤ m → tmrEnabled (r m) = true := fun m hm => by
    obtain ⟨-, hf, -⟩ := step_eq_next (hrun m)
    exact (tmrEnabled_iff _).mpr ⟨hf, (hw m hm).expiry.resolve_left (hnever m hm)⟩
  obtain ⟨m, hm, ha⟩ := htmr n henabled
  have hpend : (r (m + 1)).tpend = true := by rw [step_eq_expire (hrun m) ha (henabled m hm)]; rfl
  exact hnever (m + 1) (by omega) hpend

/-- The fairness of INT: no machine waits for ever, because a pending expiry is deliverable until it is delivered. -/
theorem not_waiting_forever {r : Nat → State} {n : Nat} (hrun : IsRun r) (htmr : TmrFair r) (hint : IntFair r) :
    ¬ ∀ m, n ≤ m → Waiting (r m) := by
  intro hw
  obtain ⟨p, hp, hpend⟩ := exists_pending_of_waiting hrun htmr hw
  have hpending : ∀ m, p ≤ m → (r m).tpend = true := fun m hm => by
    induction m, hm using Nat.le_induction with
    | base => exact hpend
    | succ m hm ih =>
      obtain ⟨-, hwoken | ⟨-, hkept⟩⟩ := step_of_waiting (hw m (by omega)) (hrun m)
      · exact absurd ((hw (m + 1) (by omega)).sleeping.symm.trans hwoken) nofun
      · exact hkept ih
  have henabled : ∀ m, p ≤ m → intEnabled .timer (r m) = true := fun m hm => by
    obtain ⟨-, hf, -⟩ := step_eq_next (hrun m)
    exact (intEnabled_iff _ _).mpr ⟨hf, (hw m (by omega)).enabled, hpending m hm⟩
  obtain ⟨m, hm, ha⟩ := hint .timer p henabled
  have hwoken : (r (m + 1)).sleeping = false := by rw [step_eq_delivery (hrun m) ha (henabled m hm)]; rfl
  exact absurd ((hw (m + 1) (by omega)).sleeping.symm.trans hwoken) nofun

/-- Settles O54: if no state of the run were awake at the suspended `pc`, the machine would wait for ever. -/
theorem aSuspendedSeqIsWoken : Obligations.ASuspendedSeqIsWoken := by
  intro r n hrun htmr hint htimer hsleep hs hopen hcountdown
  by_contra! hnever
  have hwaits : ∀ m, n ≤ m → Waiting (r m) ∧ (r m).pc = (r n).pc := fun m hm => by
    induction m, hm using Nat.le_induction with
    | base => exact ⟨waiting_of_open_window htimer hsleep hs hopen hcountdown, rfl⟩
    | succ m hm ih =>
      obtain ⟨hw, hpc⟩ := ih
      obtain ⟨hkept, hwoken | ⟨hw', -⟩⟩ := step_of_waiting hw (hrun m)
      · exact absurd (hkept.trans hpc) (hnever (m + 1) (by omega) hwoken)
      · exact ⟨hw', hkept.trans hpc⟩
  exact not_waiting_forever hrun htmr hint fun m hm => (hwaits m hm).left

end Sys2Proof.Machine
end

section
/-! PROOF. The sample acquirer (43_sample_acquirer.md R140 to R151): what each command of group 0x4 does where its
registers are written and where they are not, and why an acquisition of at most `SAMPLES` Raw Samples never
overflows. -/

namespace Sys2Proof.Machine

/-! ### The counter and the Raw Sample -/

/-- Settles O24: each of the two commands is one write of zeros and the advance of `pc`. -/
theorem cntclrAndAccclr : Obligations.CntclrAndAccclr :=
  ⟨⟨rfl, fun _ => rfl⟩, rfl, fun _ => rfl⟩

section
variable {s : State}

theorem exec_cntinc_of_unwritten (hcnt : s.cnt = none) : exec .cntinc s = .next (s.setFault (.unwritten .cnt)) := by
  simp [exec, execCntinc, hcnt]

theorem exec_cntinc_of_written {n : Count} (hcnt : s.cnt = some n) :
    exec .cntinc s = .next (advancePc (s.setCnt (n + 1))) := by
  simp [exec, execCntinc, hcnt]

theorem exec_rawset_of_unwritten (hcnt : s.cnt = none) : exec .rawset s = .next (s.setFault (.unwritten .cnt)) := by
  simp [exec, execRawset, hcnt]

theorem exec_rawset_of_written {n : Count} (hcnt : s.cnt = some n) :
    exec .rawset s = .next (advancePc (s.setRaw (rawSample n))) := by
  simp [exec, execRawset, hcnt]

end

/-- Settles O25: the counter's addition is that of 16-bit words, which wraps. -/
theorem cntincWrapsAtSixteenBits : Obligations.CntincWrapsAtSixteenBits :=
  ⟨rfl, fun _ => ⟨exec_cntinc_of_unwritten, fun n hcnt => ⟨n + 1, BitVec.toNat_add n 1, exec_cntinc_of_written hcnt⟩⟩⟩

/-- The Raw Sample of a counter, as a number (43_sample_acquirer.md R143). -/
theorem rawSample_toNat (n : Count) : (rawSample n).toNat = if n.toNat = 0 then 0xFFFF else n.toNat := by
  have hzero : n = 0 ↔ n.toNat = 0 := BitVec.toNat_inj.symm
  unfold rawSample
  simp only [hzero]
  split <;> rfl

/-- Settles O26, by whether `cnt` is written. -/
theorem rawsetSaturatesAWrappedCounter : Obligations.RawsetSaturatesAWrappedCounter :=
  ⟨rfl, fun _ => ⟨exec_rawset_of_unwritten, fun n hcnt =>
    ⟨rawSample n, rawSample_toNat n, exec_rawset_of_written hcnt⟩⟩⟩

/-! ### The accumulator -/

section
variable {s : State} {r : Count} {t : Total} {i : SubIndex}

theorem exec_accadd_of_raw_unwritten (hraw : s.raw = none) :
    exec .accadd s = .next (s.setFault (.unwritten .raw)) := by
  simp [exec, execAccadd, hraw]

theorem exec_accadd_of_sum_unwritten (hraw : s.raw = some r) (hsum : s.sum = none) :
    exec .accadd s = .next (s.setFault (.unwritten .sum)) := by
  simp [exec, execAccadd, hraw, hsum]

theorem exec_accadd_of_k_unwritten (hraw : s.raw = some r) (hsum : s.sum = some t) (hk : s.k = none) :
    exec .accadd s = .next (s.setFault (.unwritten .k)) := by
  simp [exec, execAccadd, hraw, hsum, hk]

theorem exec_accadd_of_overflow (hraw : s.raw = some r) (hsum : s.sum = some t) (hk : s.k = some i)
    (hover : accumulatorOverflows t r i = true) : exec .accadd s = .next (s.setFault (.range .accadd)) := by
  simp [exec, execAccadd, hraw, hsum, hk, hover]

theorem exec_accadd_of_fits (hraw : s.raw = some r) (hsum : s.sum = some t) (hk : s.k = some i)
    (hfits : accumulatorOverflows t r i = false) :
    exec .accadd s = .next (advancePc (s.setAccumulator (t + r.zeroExtend 32) (i + 1))) := by
  simp [exec, execAccadd, hraw, hsum, hk, hfits]

theorem accumulatorOverflows_eq_false_iff :
    accumulatorOverflows t r i = false ↔ t.toNat + r.toNat ≤ 2 ^ 32 - 1 ∧ i.toNat + 1 ≤ 2 ^ 17 - 1 := by
  rw [← Bool.not_eq_true, accumulatorOverflows_iff, not_or, Nat.not_lt, Nat.not_lt]

end

/-- Settles O27: the checks in their order, then the two exact additions. -/
theorem accaddAccumulatesExactly : Obligations.AccaddAccumulatesExactly := by
  refine ⟨rfl, fun s => ⟨exec_accadd_of_raw_unwritten, fun hraw hsum => ?sum, fun hraw hsum hk => ?k,
    fun r t i hraw hsum hk => ⟨fun hover => ?range, fun hfit hindex => ?adds⟩⟩⟩
  case sum =>
    obtain ⟨r, hraw⟩ := Option.ne_none_iff_exists'.mp hraw
    exact exec_accadd_of_sum_unwritten hraw hsum
  case k =>
    obtain ⟨r, hraw⟩ := Option.ne_none_iff_exists'.mp hraw
    obtain ⟨t, hsum⟩ := Option.ne_none_iff_exists'.mp hsum
    exact exec_accadd_of_k_unwritten hraw hsum hk
  case range => exact exec_accadd_of_overflow hraw hsum hk ((accumulatorOverflows_iff t r i).mpr hover)
  case adds =>
    exact ⟨_, _, sum_toNat t r hfit, index_toNat i hindex,
      exec_accadd_of_fits hraw hsum hk (accumulatorOverflows_eq_false_iff.mpr ⟨hfit, hindex⟩)⟩

/-! ### The average -/

section
variable {s : State} {t : Total}

theorem exec_avg_of_unwritten (hsum : s.sum = none) : exec .avg s = .next (s.setFault (.unwritten .sum)) := by
  simp [exec, execAvg, hsum]

theorem exec_avg_of_overflow (hsum : s.sum = some t) (hover : 0xFFFF < t.toNat / s.cfg.samples) :
    exec .avg s = .next (s.setFault (.range .avg)) := by
  simp [exec, execAvg, hsum, hover]

theorem exec_avg_of_fits (hsum : s.sum = some t) (hfits : t.toNat / s.cfg.samples ≤ 0xFFFF) :
    exec .avg s = .next (advancePc (s.setReading (BitVec.ofNat 16 (t.toNat / s.cfg.samples)))) := by
  simp [exec, execAvg, hsum, hfits]

end

/-- A quotient that fits the reading is exact (43_sample_acquirer.md R146). -/
theorem reading_toNat {q : Nat} (h : q ≤ 0xFFFF) : (BitVec.ofNat 16 q).toNat = q :=
  (BitVec.toNat_ofNat q 16).trans (Nat.mod_eq_of_lt (Nat.lt_succ_of_le h))

/-- Settles O28, by whether the quotient fits 16 bits. -/
theorem avgDividesWithTruncation : Obligations.AvgDividesWithTruncation :=
  ⟨rfl, fun _ => ⟨exec_avg_of_unwritten, fun _ => exec_avg_of_overflow, fun _ hsum hfits =>
    ⟨_, reading_toNat hfits, exec_avg_of_fits hsum hfits⟩⟩⟩

/-! ### An acquisition never overflows -/

theorem samples_bounds_of_legal {c : Config} (h : c.legal = true) : 1 ≤ c.samples ∧ c.samples ≤ 65537 := by
  simp only [Config.legal, Config.samplesLegal, Bool.and_eq_true, decide_eq_true_eq] at h
  obtain ⟨-, hsamples, -⟩ := h
  exact hsamples

theorem accumulator_bounds {s : State} {t : Total} {i : SubIndex} (h : s.AccumulatorOk) (hsum : s.sum = some t)
    (hk : s.k = some i) : i.toNat ≤ t.toNat ∧ t.toNat ≤ i.toNat * 0xFFFF :=
  accumulatorWithin_some_iff.mp (hsum ▸ hk ▸ h)

/-- 65537 × 0xFFFF = 2^32 − 1: up to the greatest `SAMPLES`, one more Raw Sample fits a sum within `k` of them
(43_sample_acquirer.md R150). -/
theorem accumulator_fits {r : Count} {t : Total} {i : SubIndex} (hsum : t.toNat ≤ i.toNat * 0xFFFF)
    (hi : i.toNat < 65537) : accumulatorOverflows t r i = false := by
  have hr := r.isLt
  exact accumulatorOverflows_eq_false_iff.mpr ⟨by omega, by omega⟩

/-- The average of `n` numbers, each from 1 to 0xFFFF, is one of these too (43_sample_acquirer.md R151). -/
theorem average_bounds {sum n : Nat} (hn : 1 ≤ n) (hlo : n ≤ sum) (hhi : sum ≤ n * 0xFFFF) :
    1 ≤ sum / n ∧ sum / n ≤ 0xFFFF :=
  ⟨Nat.div_pos hlo hn, Nat.div_le_of_le_mul hhi⟩

/-- Settles O29: the accumulator's bound `k ≤ sum ≤ k × 0xFFFF` keeps every sum and every average in range. -/
theorem acquisitionNeverOverflows : Obligations.AcquisitionNeverOverflows := by
  intro s hlegal hacc hrawOk
  obtain ⟨hpos, hmax⟩ := samples_bounds_of_legal hlegal
  refine ⟨fun r t i hraw hsum hk hi => ?accadd, fun t i hsum hk hi => ?avg⟩
  case accadd =>
    obtain ⟨-, hhi⟩ := accumulator_bounds hacc hsum hk
    have hfits : accumulatorOverflows t r i = false := accumulator_fits hhi (by omega)
    have hne : r ≠ 0 := fun hzero => hrawOk (hzero ▸ hraw)
    have hkept := accumulatorWithin_add hne (hsum ▸ hk ▸ hacc) hfits
    have hindex : (i + 1).toNat ≤ s.cfg.samples := by rw [index_toNat i (by omega)]; omega
    exact ⟨_, exec_accadd_of_fits hraw hsum hk hfits, rfl, hkept, rfl, hindex⟩
  case avg =>
    obtain ⟨hlo, hhi⟩ := accumulator_bounds hacc hsum hk
    rw [hi] at hlo hhi
    obtain ⟨hone, hfits⟩ := average_bounds hpos hlo hhi
    exact ⟨_, _, exec_avg_of_fits hsum hfits, rfl, rfl, hone.trans_eq (reading_toNat hfits).symm⟩

end Sys2Proof.Machine
end

section
/-! PROOF. The history ring and the minimum and maximum over it (44_touch_detector.md R160 to R162): one push, a
sequence of pushes since reset, and the scan. -/

namespace Sys2Proof.Machine

/-! ### The push -/

theorem exec_push_of_unwritten {s : State} (hr : s.reading = none) :
    exec .push s = .next (s.setFault (.unwritten .reading)) := by
  simp [exec, execPush, hr]

/-- A push keeps the pointer in the window and the history canonical. -/
theorem State.HistoryOk.pushHistory {s : State} (h : s.HistoryOk) (v : Count) : (s.pushHistory v).HistoryOk :=
  have ⟨hwp, hwf⟩ := h
  ⟨Nat.mod_lt _ (Nat.zero_lt_of_lt hwp), Memory.write_wf v hwf hwp⟩

/-- Settles O30: a push is one write of the slot `wp` and one move of the pointer. -/
theorem pushOverwritesTheOldestSlot : Obligations.PushOverwritesTheOldestSlot := by
  refine ⟨rfl, fun s => ⟨exec_push_of_unwritten, fun r hr hok => ?written⟩⟩
  have ⟨_, hwf⟩ := hok
  have hexec := exec_push_of_written hr
  exact ⟨_, hexec, Memory.read_write_same r hwf, fun _ hj => exec_push_read_other hexec hj, rfl, hok.pushHistory r⟩

/-! ### The window after a sequence of pushes -/

/-- The window after reset is all zeros, wherever the pointer is (10_state.md R29, R43). -/
theorem Memory.oldestFirst_nil (window wp : Nat) :
    Memory.oldestFirst window wp [] = List.replicate window 0 := by
  simp [Memory.oldestFirst]

/-- Dropping the oldest of the last `w.length` values and appending one leaves the last `w.length` values of the
longer list. -/
theorem drop_one_append_singleton {α : Type} {w : List α} (hw : 0 < w.length) (xs : List α) (x : α) :
    ((w ++ xs).drop xs.length).drop 1 ++ [x] = (w ++ (xs ++ [x])).drop (xs ++ [x]).length := by
  have hlen : xs.length + 1 ≤ (w ++ xs).length := by rw [List.length_append]; omega
  rw [List.drop_drop, ← List.append_assoc, List.length_append, List.length_singleton,
    List.drop_append_of_le_length hlen]

/-- The pushes since reset keep the configuration and a well-formed history, and each shifts the window by one. -/
theorem pushedFrom_reset {c : Config} {x : Slot} {later : List Slot} {xs : List Count} {t : State}
    (hc : c.legal = true) (h : PushedFrom (State.resetWith c x later) xs t) :
    t.cfg = c ∧ t.HistoryOk ∧
      t.hist.oldestFirst c.window t.wp = (List.replicate c.window 0 ++ xs).drop xs.length := by
  have hwindow := window_pos_of_legal hc
  induction h with
  | start =>
    refine ⟨rfl, ⟨hwindow, Memory.reset_wf c.window⟩, ?_⟩
    rw [List.append_nil]
    exact Memory.oldestFirst_nil c.window 0
  | @push xs t u v r _ hhist hwp hcfg hr hexec ih =>
    obtain ⟨htcfg, htok, hwin⟩ := ih
    obtain rfl : u.cfg = c := hcfg.trans htcfg
    have huok : u.HistoryOk := by rwa [State.HistoryOk, hhist, hwp, hcfg]
    obtain rfl := Host.Outcome.next.inj ((exec_push_of_written hr).symm.trans hexec)
    refine ⟨rfl, huok.pushHistory r, ?_⟩
    calc (u.hist.write u.wp r).oldestFirst u.cfg.window ((u.wp + 1) % u.cfg.window)
        = (u.hist.oldestFirst u.cfg.window u.wp).drop 1 ++ [r] := pushShiftsTheWindow u _ r huok hr hexec
      _ = ((List.replicate u.cfg.window 0 ++ xs).drop xs.length).drop 1 ++ [r] := by rw [hhist, hwp, hwin]
      _ = _ := drop_one_append_singleton (by rwa [List.length_replicate]) xs r

/-- Settles O32: the window is one clause of what every push since reset keeps. -/
theorem windowHoldsTheMostRecentReadings : Obligations.WindowHoldsTheMostRecentReadings := by
  intro c x later xs t hc h
  obtain ⟨-, -, hwin⟩ := pushedFrom_reset hc h
  exact hwin

/-! ### The scan -/

section
variable {window : Nat} (m : Memory)

theorem Memory.slots_ne_nil (h : 0 < window) : m.slots window ≠ [] :=
  List.ne_nil_of_mem (Memory.mem_slots.mpr ⟨0, h, rfl⟩)

/-- The minimum is the value of some slot. -/
theorem Memory.exists_read_eq_lowest (h : 0 < window) : ∃ i, i < window ∧ m.read i = m.lowest window :=
  Memory.mem_slots.mp (foldr_lower_mem _ (m.slots_ne_nil h))

/-- The maximum is the value of some slot. -/
theorem Memory.exists_read_eq_highest (h : 0 < window) : ∃ i, i < window ∧ m.read i = m.highest window :=
  Memory.mem_slots.mp (foldr_upper_mem _ (m.slots_ne_nil h))

/-- Every slot lies between the minimum and the maximum (44_touch_detector.md R162). -/
theorem Memory.read_between {i : Nat} (h : i < window) :
    (m.lowest window).toNat ≤ (m.read i).toNat ∧ (m.read i).toNat ≤ (m.highest window).toNat := by
  have hslot : m.read i ∈ m.slots window := Memory.mem_slots.mpr ⟨i, h, rfl⟩
  exact ⟨Count.foldr_lower_le _ hslot, Count.le_foldr_upper _ hslot⟩

end

/-- Settles O33: the two values of the scan are the minimum and the maximum of the slots. -/
theorem scanFindsTheExtremes : Obligations.ScanFindsTheExtremes :=
  ⟨rfl, fun s hwindow => ⟨_, _, rfl, s.hist.exists_read_eq_lowest hwindow, s.hist.exists_read_eq_highest hwindow,
    fun _ hi => s.hist.read_between hi⟩⟩

end Sys2Proof.Machine
end

section
/-! PROOF. The threshold and the detection state machine (44_touch_detector.md R163 to R165, R172, R173). -/

namespace Sys2Proof.Machine

/-! ### The evaluation -/

theorem belowThreshold_iff (c : Config) (r hi : Count) :
    belowThreshold c r hi = true ↔ r.toNat * c.thrDen < hi.toNat * c.thrNum :=
  decide_eq_true_iff

section
variable {s : State} {r hi : Count}

theorem exec_eval_of_reading_unwritten (hr : s.reading = none) :
    exec .eval s = .next (s.setFault (.unwritten .reading)) := by
  simp [exec, execEval, hr]

theorem exec_eval_of_mx_unwritten (hr : s.reading = some r) (hhi : s.mx = none) :
    exec .eval s = .next (s.setFault (.unwritten .mx)) := by
  simp [exec, execEval, hr, hhi]

theorem exec_eval_of_written (hr : s.reading = some r) (hhi : s.mx = some hi) :
    exec .eval s = .next (advancePc (evaluate (belowThreshold s.cfg r hi) s)) := by
  simp [exec, execEval, hr, hhi]

/-- An evaluation without a fault writes both detector bits from some `cond` (44_touch_detector.md R163). -/
theorem eq_evaluate_of_exec_eval {t : State} (h : exec .eval s = .next t) (hf : t.fault = none) :
    ∃ cond, t = advancePc (evaluate cond s) := by
  cases hr : s.reading with
  | none =>
    obtain rfl := Host.Outcome.next.inj ((exec_eval_of_reading_unwritten hr).symm.trans h)
    cases hf
  | some r =>
    cases hhi : s.mx with
    | none =>
      obtain rfl := Host.Outcome.next.inj ((exec_eval_of_mx_unwritten hr hhi).symm.trans h)
      cases hf
    | some hi => exact ⟨_, Host.Outcome.next.inj (h.symm.trans (exec_eval_of_written hr hhi))⟩

end

/-- Settles O35: the checks in their order, then the four rows of the table. -/
theorem evalAppliesTheTransitionRule : Obligations.EvalAppliesTheTransitionRule := by
  refine ⟨rfl, fun s => ⟨exec_eval_of_reading_unwritten, fun hr hhi => ?mx, fun r hi hr hhi => ?written⟩⟩
  case mx =>
    obtain ⟨r, hr⟩ := Option.ne_none_iff_exists'.mp hr
    exact exec_eval_of_mx_unwritten hr hhi
  case written =>
    refine ⟨belowThreshold s.cfg r hi, belowThreshold_iff s.cfg r hi, ?_⟩
    rw [exec_eval_of_written hr hhi, evaluate]
    cases s.inpeak <;> cases belowThreshold s.cfg r hi <;> rfl

/-! ### The onset -/

theorem threshold_le_of_legal {c : Config} (h : c.legal = true) : c.thrNum ≤ c.thrDen := by
  simp only [Config.legal, Config.thresholdLegal, Bool.and_eq_true, decide_eq_true_eq] at h
  obtain ⟨-, -, ⟨hthreshold, -⟩, -⟩ := h
  exact hthreshold

/-- A threshold of at most 1 lies at or below the maximum (44_touch_detector.md R173). -/
theorem lt_of_belowThreshold {c : Config} {r hi : Count} (hc : c.legal = true)
    (h : belowThreshold c r hi = true) : r.toNat < hi.toNat := by
  have hscaled : r.toNat * c.thrDen < hi.toNat * c.thrDen :=
    calc r.toNat * c.thrDen < hi.toNat * c.thrNum := (belowThreshold_iff c r hi).mp h
      _ ≤ hi.toNat * c.thrDen := Nat.mul_le_mul_left _ (threshold_le_of_legal hc)
  exact Nat.lt_of_mul_lt_mul_right hscaled

/-- Settles O36: `inpeak` after an evaluation is `cond`. -/
theorem onsetNeedsADip : Obligations.OnsetNeedsADip := by
  intro s t r hi hc hr hhi h hpeak
  obtain rfl := Host.Outcome.next.inj ((exec_eval_of_written hr hhi).symm.trans h)
  exact lt_of_belowThreshold hc hpeak

theorem touchOnset_iff (cond inpeak : Bool) : touchOnset cond inpeak = true ↔ cond = true ∧ inpeak = false := by
  simp [touchOnset]

/-- Settles O37: an onset leaves `inpeak = 1`, and from there an evaluation is no onset, whatever its `cond`. -/
theorem onsetsAreEdges : Obligations.OnsetsAreEdges := by
  intro s t u v hs _ htfault honset hpeak _ hu hvfault
  obtain ⟨cond, rfl⟩ := eq_evaluate_of_exec_eval hs htfault
  obtain ⟨cond', rfl⟩ := eq_evaluate_of_exec_eval hu hvfault
  obtain ⟨hcond, -⟩ := (touchOnset_iff cond s.inpeak).mp (Option.some.inj honset)
  have hinpeak : u.inpeak = true := hpeak.trans hcond
  show some (touchOnset cond' u.inpeak) = some false
  rw [hinpeak, touchOnset, Bool.not_true, Bool.and_false]

end Sys2Proof.Machine
end

section
/-! PROOF. The output records (44_touch_detector.md R166, R167, R171): what the two emitting commands do for each
state of their registers and of the sink. -/

namespace Sys2Proof.Machine

/-! ### `EMITEV` -/

section
variable {s : State}

theorem exec_emitev_of_unwritten (he : s.event = none) : exec .emitev s = .next (s.setFault (.unwritten .event)) := by
  simp [exec, execEmitev, he]

theorem exec_emitev_of_no_onset (he : s.event = some false) : exec .emitev s = .next (advancePc s) := by
  simp [exec, execEmitev, he]

theorem exec_emitev_of_onset (he : s.event = some true) : exec .emitev s = .next (emitRecord .touch s) := by
  simp [exec, execEmitev, he]

end

/-- Settles O39: by `event`, and at an onset by OUT_READY. -/
theorem emitevHandsOverTheTouch : Obligations.EmitevHandsOverTheTouch := by
  refine ⟨rfl, fun s => ⟨exec_emitev_of_unwritten, exec_emitev_of_no_onset, fun he hready => ?hands, fun he hfull =>
    ?holds⟩⟩
  case hands => exact (exec_emitev_of_onset he).trans (congrArg Host.Outcome.next (emitRecord_ready hready _))
  case holds => exact (exec_emitev_of_onset he).trans (congrArg Host.Outcome.next (emitRecord_hold hfull _))

/-! ### `EMITDG` -/

section
variable {s : State} {r lo hi : Count}

theorem exec_emitdg_of_reading_unwritten (hr : s.reading = none) :
    exec .emitdg s = .next (s.setFault (.unwritten .reading)) := by
  simp [exec, execEmitdg, hr]

theorem exec_emitdg_of_mn_unwritten (hr : s.reading = some r) (hlo : s.mn = none) :
    exec .emitdg s = .next (s.setFault (.unwritten .mn)) := by
  simp [exec, execEmitdg, hr, hlo]

theorem exec_emitdg_of_mx_unwritten (hr : s.reading = some r) (hlo : s.mn = some lo) (hhi : s.mx = none) :
    exec .emitdg s = .next (s.setFault (.unwritten .mx)) := by
  simp [exec, execEmitdg, hr, hlo, hhi]

theorem exec_emitdg_of_out_of_range (hr : s.reading = some r) (hlo : s.mn = some lo) (hhi : s.mx = some hi)
    (hout : ¬(lo.toNat ≤ r.toNat ∧ r.toNat ≤ hi.toNat)) :
    exec .emitdg s = .next (s.setFault (.range .emitdg)) := by
  simp [exec, execEmitdg, hr, hlo, hhi, (diagnosticInRange_iff r lo hi).not.mpr hout]

theorem exec_emitdg_of_in_range (hr : s.reading = some r) (hlo : s.mn = some lo) (hhi : s.mx = some hi)
    (hin : lo.toNat ≤ r.toNat ∧ r.toNat ≤ hi.toNat) :
    exec .emitdg s = .next (emitRecord (diagRecord r lo hi) s) := by
  simp [exec, execEmitdg, hr, hlo, hhi, (diagnosticInRange_iff r lo hi).mpr hin]

/-- In range and with the sink ready the record is handed over. -/
theorem exec_emitdg_of_ready (hr : s.reading = some r) (hlo : s.mn = some lo) (hhi : s.mx = some hi)
    (hin : lo.toNat ≤ r.toNat ∧ r.toNat ≤ hi.toNat) (hready : s.slot.outReady = true) :
    exec .emitdg s = .next (advancePc (s.logEvent (diagRecord r lo hi))) :=
  (exec_emitdg_of_in_range hr hlo hhi hin).trans (congrArg Host.Outcome.next (emitRecord_ready hready _))

/-- In range and with the sink not ready the command holds (log 6). -/
theorem exec_emitdg_of_full (hr : s.reading = some r) (hlo : s.mn = some lo) (hhi : s.mx = some hi)
    (hin : lo.toNat ≤ r.toNat ∧ r.toNat ≤ hi.toNat) (hfull : s.slot.outReady = false) :
    exec .emitdg s = .next s :=
  (exec_emitdg_of_in_range hr hlo hhi hin).trans (congrArg Host.Outcome.next (emitRecord_hold hfull _))

end

/-- Settles O41: the checks in their order; none of them reads OUT_READY. -/
theorem emitdgChecksBeforeItHolds : Obligations.EmitdgChecksBeforeItHolds := by
  refine fun s => ⟨exec_emitdg_of_reading_unwritten, fun hr hlo => ?mn, fun hr hlo hhi => ?mx,
    fun _ _ _ => exec_emitdg_of_out_of_range⟩
  case mn =>
    obtain ⟨r, hr⟩ := Option.ne_none_iff_exists'.mp hr
    exact exec_emitdg_of_mn_unwritten hr hlo
  case mx =>
    obtain ⟨r, hr⟩ := Option.ne_none_iff_exists'.mp hr
    obtain ⟨lo, hlo⟩ := Option.ne_none_iff_exists'.mp hlo
    exact exec_emitdg_of_mx_unwritten hr hlo hhi

/-- With an unwritten operand `EMITDG` names one that is unwritten (44_touch_detector.md R167). -/
theorem exec_emitdg_of_unwritten {s : State} (h : s.reading = none ∨ s.mn = none ∨ s.mx = none) :
    ∃ x, exec .emitdg s = .next (s.setFault (.unwritten x)) ∧
      ((x = .reading ∧ s.reading = none) ∨ (x = .mn ∧ s.mn = none) ∨ (x = .mx ∧ s.mx = none)) := by
  cases hr : s.reading with
  | none => exact ⟨_, exec_emitdg_of_reading_unwritten hr, .inl ⟨rfl, rfl⟩⟩
  | some r =>
    cases hlo : s.mn with
    | none => exact ⟨_, exec_emitdg_of_mn_unwritten hr hlo, .inr (.inl ⟨rfl, rfl⟩)⟩
    | some lo =>
      have hhi : s.mx = none := by simpa [hr, hlo] using h
      exact ⟨_, exec_emitdg_of_mx_unwritten hr hlo hhi, .inr (.inr ⟨rfl, hhi⟩)⟩

/-- Settles O40: the three differences of a record in range are exact. -/
theorem emitdgHandsOverTheDiagnosis : Obligations.EmitdgHandsOverTheDiagnosis := by
  refine ⟨rfl, fun s => ⟨fun _ => exec_emitdg_of_unwritten, fun r lo hi hr hlo hhi =>
    ⟨fun _ => exec_emitdg_of_out_of_range hr hlo hhi, fun hle hge hready => ?hands,
      fun hle hge => exec_emitdg_of_full hr hlo hhi ⟨hle, hge⟩⟩⟩⟩
  case hands =>
    exact ⟨_, _, _, BitVec.toNat_sub_of_le (hle.trans hge), BitVec.toNat_sub_of_le hle, BitVec.toNat_sub_of_le hge,
      exec_emitdg_of_ready hr hlo hhi ⟨hle, hge⟩ hready⟩

/-! ### The record after a push and a scan -/

/-- Settles O34: the slot just pushed is one of those the scan reads. -/
theorem scanAfterPushBoundsTheReading : Obligations.ScanAfterPushBoundsTheReading := by
  rintro s t u r ⟨hwp, hwf⟩ hr hpush hscan
  obtain rfl := Host.Outcome.next.inj ((exec_push_of_written hr).symm.trans hpush)
  obtain rfl := Host.Outcome.next.inj hscan
  have hbounds := (s.hist.write s.wp r).read_between hwp
  rw [Memory.read_write_same r hwf] at hbounds
  obtain ⟨hlo, hhi⟩ := hbounds
  exact ⟨_, _, rfl, rfl, hlo, hhi, fun hready =>
    ⟨_, exec_emitdg_of_ready hr rfl rfl ⟨hlo, hhi⟩ hready, rfl, rfl⟩⟩

end Sys2Proof.Machine
end

section
/-! PROOF. The faults and the port trace (60_exceptions.md R186, R187, 00_scope.md R12): a command either records a
fault that its row of R186 names and writes nothing else, or keeps the fault register and extends the trace. -/

namespace Sys2Proof.Machine

/-! ### The two ends of a command -/

/-- The mnemonics of the `F_UNWRITTEN` row of 60_exceptions.md R186. -/
def unwrittenRaisers : List String :=
  ["CHG", "BPASS", "BSUB", "CNTINC", "RAWSET", "ACCADD", "AVG", "PUSH", "EVAL", "EMITEV", "EMITDG"]

/-- The command can raise the fault: the "raised by" column of 60_exceptions.md R186. -/
inductive Raises : Instr → FaultRecord → Prop where
  | unwritten {i : Instr} {r : RegName} : i.mnemonic ∈ unwrittenRaisers → Raises i (.unwritten r)
  | accadd : Raises .accadd (.range .accadd)
  | avg : Raises .avg (.range .avg)
  | emitdg : Raises .emitdg (.range .emitdg)

/-- What a command can make of `s`: the record of a fault it raises, or a state with the fault register of `s` and an
extended trace. `exec_ends` ties it to `exec`. -/
inductive Ends (i : Instr) (s : State) : State → Prop where
  | faults {f : FaultRecord} : Raises i f → Ends i s (s.setFault f)
  | completes {t : State} : t.fault = s.fault → s.trace <+: t.trace → Ends i s t

section
variable {i : Instr} {s t : State}

theorem Ends.of_same (hfault : t.fault = s.fault) (htrace : t.trace = s.trace) : Ends i s t :=
  .completes hfault ⟨[], by rw [htrace, List.append_nil]⟩

theorem Ends.of_log {es : List TraceEvent} (hfault : t.fault = s.fault) (htrace : t.trace = s.trace ++ es) :
    Ends i s t :=
  .completes hfault ⟨es, htrace.symm⟩

/-- A checked read ends well in a command of the `F_UNWRITTEN` row whose continuation does. -/
theorem Ends.withWritten {α : Type} {r : RegName} {v : Option α} {go : α → State}
    (hrow : i.mnemonic ∈ unwrittenRaisers) (hgo : ∀ x, Ends i s (go x)) : Ends i s (withWritten r v s go) := by
  cases v with
  | none => exact .faults (.unwritten hrow)
  | some x => exact hgo x

theorem Ends.withKickRegister {go : State} (hrow : i.mnemonic ∈ unwrittenRaisers) (hgo : Ends i s go) :
    Ends i s (withKickRegister s go) := by
  unfold Machine.withKickRegister
  split
  · exact .withWritten hrow fun _ => hgo
  · exact .withWritten hrow fun _ => hgo
  · exact hgo

theorem Ends.branchIf (taken : Bool) (off : Int) : Ends i s (branchIf taken off s) :=
  of_branchIf taken off fun _ => .of_same rfl rfl

theorem Ends.emitRecord (e : TraceEvent) : Ends i s (emitRecord e s) :=
  of_emitRecord (.of_same rfl rfl) (.of_log rfl rfl)

theorem Ends.chargeDrive (hard : Bool) (p : Pin) : Ends i s (advancePc (chargeDrive hard p s)) :=
  of_chargeDrive (P := fun u => Ends i s (advancePc u)) hard p (.of_log rfl rfl)
    (.of_log rfl (List.append_assoc s.trace [_] [_]))

theorem Ends.chargeDelayEvent : Ends i s (advancePc (chargeDelayEvent s)) :=
  of_chargeDelayEvent (P := fun u => Ends i s (advancePc u)) (.of_same rfl rfl) fun _ => .of_log rfl rfl

end

/-- The ends of each command: by its checks, and by its one result where it makes none. -/
theorem exec_ends (i : Instr) (s : State) : ∃ t, exec i s = .next t ∧ Ends i s t := by
  cases i with
  | drvl | drvh | floatPin | pullup => exact ⟨_, rfl, .of_log rfl rfl⟩
  | drvl2 => exact ⟨_, rfl, .of_log rfl (List.append_assoc s.trace [_] [_])⟩
  | chg p => exact ⟨_, rfl, .withKickRegister (by decide : "CHG" ∈ unwrittenRaisers) (.chargeDrive _ p)⟩
  | cdelay => exact ⟨_, rfl, .chargeDelayEvent⟩
  | cntinc | rawset | push => exact ⟨_, rfl, .withWritten (by decide) fun _ => .of_same rfl rfl⟩
  | eval =>
    have hrow : Instr.eval.mnemonic ∈ unwrittenRaisers := by decide
    exact ⟨_, rfl, .withWritten hrow fun _ => .withWritten hrow fun _ => .of_same rfl rfl⟩
  | accadd =>
    have hrow : Instr.accadd.mnemonic ∈ unwrittenRaisers := by decide
    exact ⟨_, rfl, .withWritten hrow fun _ => .withWritten hrow fun _ => .withWritten hrow
      fun _ => iteInduction (fun _ => .faults .accadd) fun _ => .of_same rfl rfl⟩
  | avg =>
    exact ⟨_, rfl, .withWritten (by decide)
      fun _ => iteInduction (fun _ => .faults .avg) fun _ => .of_same rfl rfl⟩
  | emitev =>
    exact ⟨_, rfl, .withWritten (by decide)
      fun _ => iteInduction (fun _ => .emitRecord _) fun _ => .of_same rfl rfl⟩
  | emitdg =>
    have hrow : Instr.emitdg.mnemonic ∈ unwrittenRaisers := by decide
    exact ⟨_, rfl, .withWritten hrow fun _ => .withWritten hrow fun _ => .withWritten hrow
      fun _ => iteInduction (fun _ => .emitRecord _) fun _ => .faults .emitdg⟩
  | bra off | bflag off | bnflag off => exact ⟨_, rfl, .branchIf _ off⟩
  | bpass off =>
    have hrow : (Instr.bpass off).mnemonic ∈ unwrittenRaisers := (by decide : "BPASS" ∈ unwrittenRaisers)
    exact ⟨_, rfl, .withWritten hrow fun _ => .withWritten hrow fun _ => .branchIf _ off⟩
  | bsub off => exact ⟨_, rfl, .withWritten (by decide : "BSUB" ∈ unwrittenRaisers) fun _ => .branchIf _ off⟩
  | _ => exact ⟨_, rfl, .of_same rfl rfl⟩

theorem ends_of_exec {i : Instr} {s t : State} (h : exec i s = .next t) : Ends i s t := by
  obtain ⟨u, hu, hends⟩ := exec_ends i s
  obtain rfl := Host.Outcome.next.inj (hu.symm.trans h)
  exact hends

/-! ### The faults of a command -/

/-- A fault that is new after a command is one of its own, and its record is all the command wrote. -/
theorem exec_raises {i : Instr} {s t : State} {f : FaultRecord} (hs : s.fault = none) (h : exec i s = .next t)
    (ht : t.fault = some f) : Raises i f ∧ t = s.setFault f := by
  cases ends_of_exec h with
  | faults hraises =>
    obtain rfl := Option.some.inj ht
    exact ⟨hraises, rfl⟩
  | completes hfault => exact absurd (ht.symm.trans (hfault.trans hs)) nofun

/-- Settles O48: the record of the fault is all that the command wrote. -/
theorem commandFaultsArePrecise : Obligations.CommandFaultsArePrecise := by
  intro i s t f hs h ht
  obtain ⟨-, hprecise⟩ := exec_raises hs h ht
  exact hprecise

/-- Settles O49, by the row of the fault. -/
theorem eachFaultHasItsRaisers : Obligations.EachFaultHasItsRaisers := by
  intro i s t f hs h ht
  obtain ⟨hraises, -⟩ := exec_raises hs h ht
  cases hraises with
  | unwritten hrow => exact hrow
  | accadd | avg | emitdg => rfl

/-! ### The port trace -/

/-- A turn leaves the trace alone, or runs a command that records no fault and extends it. -/
theorem turn_trace {s u : State} (hs : s.fault = none) (h : Turn s u) :
    u.trace = s.trace ∨ (∃ i, RunsCommand s i) ∧ u.fault = none ∧ s.trace <+: u.trace := by
  cases h with
  | command hrun hexec =>
    cases ends_of_exec hexec with
    | faults => exact .inl rfl
    | completes hfault hgrows => exact .inr ⟨⟨_, hrun⟩, hfault.trans hs, hgrows⟩
  | interrupt src => cases src <;> exact .inl rfl
  | _ => exact .inl rfl

/-- Settles O51: the passing of the slot after the turn touches neither the trace nor the fault register. -/
theorem traceOnlyGrows : Obligations.TraceOnlyGrows := by
  intro s t h
  obtain ⟨-, hs, -⟩ := step_eq_next h
  obtain ⟨u, hu, rfl⟩ := step_turn h
  rw [State.passSlot_trace, State.passSlot_fault]
  rcases turn_trace hs hu with hsame | ⟨⟨i, hrun⟩, hnone, es, hgrows⟩
  · exact ⟨[], by rw [hsame, List.append_nil], fun hne => absurd rfl hne⟩
  · exact ⟨es, hgrows.symm, fun _ => ⟨i, hrun, hnone⟩⟩

/-! ### Fetch and decode faults -/

theorem seqCommand_of_no_word {s : State} (hw : fetchWord s = none) :
    seqCommand s = .next (s.setFault (.fetch s.pc)) := by
  simp [seqCommand, hw]

theorem seqCommand_of_illegal {s : State} {w : Word} {e : DecodeReject} (hw : fetchWord s = some w)
    (hd : decode w = .error e) : seqCommand s = .next (s.setFault (.illegal w)) := by
  simp [seqCommand, hw, hd]

/-- Settles O4, by what the fetch and the decode answer. -/
theorem fetchAndDecodeFaults : Obligations.FetchAndDecodeFaults := by
  intro s hl hf hb hs ha
  rw [step_of_seq hl hf ha, seqTurn_of_awake hb hs]
  refine ⟨fun hpc => ?fetch, fun w e hw hd => ?illegal⟩
  case fetch => exact congrArg (onNext State.passSlot) (seqCommand_of_no_word (List.getElem?_eq_none hpc))
  case illegal => exact congrArg (onNext State.passSlot) (seqCommand_of_illegal hw hd)

/-! ### The refused configurations -/

/-- The legal column of 00_scope.md R7, clause by clause. -/
theorem Config.legal_iff (c : Config) :
    c.legal = true ↔ 1 ≤ c.window ∧ c.window ≤ 65535 ∧ 1 ≤ c.samples ∧ c.samples ≤ 65537 ∧
      c.thrNum ≤ c.thrDen ∧ 1 ≤ c.thrDen ∧ c.thrDen ≤ 65535 ∧ c.delayCycles = 7 ∧
      1 ≤ c.dischargeTicks ∧ c.rom.length ≤ 256 := by
  simp only [Config.legal, Config.windowLegal, Config.samplesLegal, Config.thresholdLegal, Config.timingLegal,
    Config.romLegal, Bool.and_eq_true, decide_eq_true_eq, and_assoc]

theorem seqTurn_answers_next (s : State) : ∃ t, seqTurn s = .next t := by
  unfold seqTurn
  split
  · split
    · exact ⟨_, rfl⟩
    · exact seqCommand_answers_next s
  · exact ⟨_, rfl⟩

theorem agentStep_answers_next (s : State) : ∃ t, agentStep s = .next t := by
  unfold agentStep
  split
  · exact seqTurn_answers_next s
  · exact ⟨_, rfl⟩
  · exact ⟨_, rfl⟩
  · exact ⟨_, rfl⟩

/-- A legal machine is never refused: it is stopped by its fault, or the agent in force answers a next state. -/
theorem step_ne_refused {s : State} (hl : s.cfg.legal = true) (r : Refusal) : step s ≠ .refused r := by
  unfold step
  rw [if_pos hl]
  split
  · nofun
  · obtain ⟨t, ht⟩ := agentStep_answers_next s
    rw [ht]
    nofun

theorem step_of_illegal {s : State} (hl : ¬ s.cfg.legal = true) : step s = .refused .illegalConfiguration := if_neg hl

/-- Settles O6: the clauses are those of `Config.legal`, the test that `step` makes first. -/
theorem illegalConfigurationHasNoRun : Obligations.IllegalConfigurationHasNoRun := by
  intro s
  rw [← Config.legal_iff]
  exact ⟨step_of_illegal, fun h hl => step_ne_refused hl _ h⟩

end Sys2Proof.Machine
end

section
/-! PROOF. The interrupts (60_exceptions.md R189 to R194): delivery, the order of two deliveries, and the
environment's request. -/

namespace Sys2Proof.Machine

/-! ### Delivery -/

theorem intTurn_of_not_enabled {src : Source} {s : State} (h : intEnabled src s = false) : intTurn src s = s := by
  simp [intTurn, h]

theorem intEnabled_of_masked {src : Source} {s : State} (h : s.ie = false) : intEnabled src s = false := by
  simp [intEnabled, h]

theorem intEnabled_of_not_pending {src : Source} {s : State} (h : s.pending src = false) :
    intEnabled src s = false := by
  simp [intEnabled, h]

/-- The turn of a deliverable source is its handler and the wake-up of SEQ. -/
theorem step_of_deliverable {s : State} {src : Source} (hl : s.cfg.legal = true) (hf : s.fault = none)
    (ha : s.slot.agent = .int src) (hie : s.ie = true) (hpend : s.pending src = true) :
    step s = .next (takeInterrupt src s).passSlot := by
  rw [step_of_int hl hf ha, intTurn_of_enabled ((intEnabled_iff src s).mpr ⟨hf, hie, hpend⟩)]

/-- Settles O43, by the source and whether it is deliverable. -/
theorem interruptDelivery : Obligations.InterruptDelivery := by
  refine fun s hl hf => ⟨step_of_deliverable hl hf, step_of_deliverable hl hf, fun src ha hidle => ?passes⟩
  case passes =>
    rw [step_of_int hl hf ha, intTurn_of_not_enabled (hidle.elim intEnabled_of_masked intEnabled_of_not_pending)]

/-! ### The order of two deliveries -/

/-- A delivery leaves the other source as deliverable as it was: each handler clears its own pending bit, and the
entry keeps `ie` (60_exceptions.md R192, R193). -/
theorem intEnabled_takeInterrupt {src src' : Source} (h : src ≠ src') (s : State) :
    intEnabled src (takeInterrupt src' s) = intEnabled src s := by
  match src, src', h with
  | .timer, .other, _ => rfl
  | .other, .timer, _ => rfl

theorem intEnabled_intTurn {src src' : Source} (h : src ≠ src') (s : State) :
    intEnabled src (intTurn src' s) = intEnabled src s := by
  unfold intTurn
  split
  · exact intEnabled_takeInterrupt h s
  · rfl

/-- The two handlers write different pending bits, and both wake SEQ (60_exceptions.md R192, R194). -/
theorem takeInterrupt_comm (s : State) :
    takeInterrupt .other (takeInterrupt .timer s) = takeInterrupt .timer (takeInterrupt .other s) := rfl

/-- Settles O44, by which sources are deliverable: the turn of the one does not change that of the other. -/
theorem interruptOrderIsUnobservable : Obligations.InterruptOrderIsUnobservable := by
  intro s
  have htimer : intEnabled .timer (intTurn .other s) = intEnabled .timer s := intEnabled_intTurn (by decide) s
  have hother : intEnabled .other (intTurn .timer s) = intEnabled .other s := intEnabled_intTurn (by decide) s
  cases ht : intEnabled .timer s with
  | false => rw [intTurn_of_not_enabled ht, intTurn_of_not_enabled (htimer.trans ht)]
  | true =>
    cases ho : intEnabled .other s with
    | false => rw [intTurn_of_not_enabled ho, intTurn_of_not_enabled (hother.trans ho)]
    | true =>
      rw [intTurn_of_enabled (hother.trans ho), intTurn_of_enabled (htimer.trans ht), intTurn_of_enabled ht,
        intTurn_of_enabled ho, takeInterrupt_comm]

/-! ### The environment's request -/

theorem step_of_env {s : State} (hl : s.cfg.legal = true) (hf : s.fault = none) (ha : s.slot.agent = .env) :
    step s = .next (s.setOpend true).passSlot := by
  simp [step, hl, hf, agentStep, ha, envTurn]

/-- A request merges with a pending one (60_exceptions.md R189). -/
theorem setOpend_of_opend {s : State} {b : Bool} (h : s.opend = b) : s.setOpend b = s := by
  subst h
  rfl

/-- Settles O45: the request is one write of `opend`. -/
theorem environmentRequestMerges : Obligations.EnvironmentRequestMerges := by
  intro s hl hf ha
  have hstep := step_of_env hl hf ha
  exact ⟨hstep, fun hpend => by rw [hstep, setOpend_of_opend hpend]⟩

end Sys2Proof.Machine
end

section
/-! PROOF. The boot step (70_reset_and_hazards.md R212): SEQ's first turn. -/

namespace Sys2Proof.Machine

theorem seqTurn_of_unbooted {s : State} (hb : s.booted = false) : seqTurn s = .next s.boot := by
  simp [seqTurn, hb]

/-- Settles O2: before boot, SEQ's turn is the boot step. -/
theorem bootStepEnablesInterrupts : Obligations.BootStepEnablesInterrupts := by
  intro s hl hf hb ha
  calc step s
    _ = onNext State.passSlot (seqTurn s) := step_of_seq hl hf ha
    _ = onNext State.passSlot (.next s.boot) := by rw [seqTurn_of_unbooted hb]
    _ = .next (State.passSlot { s with booted := true, ie := true }) := rfl

end Sys2Proof.Machine
end
